-- ==== Sys2Proof/Word.lean ====
section
/-! DEFINITION. The words of the block: bytes, 16-bit values, 24-bit command words (00_scope.md R12, 30_encoding.md R70)
and the scaled pair of 41_decode_scale.md R111. -/

namespace Sys2Proof

/-- The unit of input, 8 bits (00_scope.md R7 `BYTE`). -/
abbrev Byte := BitVec 8

/-- A 16-bit unsigned value (00_scope.md R7 `CRC_WIDTH`, 41_decode_scale.md R110). -/
abbrev Word := BitVec 16

/-- A 24-bit command word (30_encoding.md R70). -/
abbrev CmdWord := BitVec 24

/-- A scaled value: integer part (13 bits) and tenths digit (4 bits), 41_decode_scale.md R111, 00_scope.md R8.
It stands for the exact decimal `int + tenths / 10` (R116). -/
structure Scaled where
  int    : BitVec 13
  tenths : BitVec 4
  deriving DecidableEq, Repr

end Sys2Proof
end

