-- ==== Sys2Proof/Config.lean ====
section
/-! DEFINITION. What is fixed for the block: the constants of 00_scope.md R7 and R8. From reset on the spec
leaves no value of the block open (93_implementation_defined.md); the one free value is met only from a state before the
first reset. `T_CLK` is read by no rule (R8) and `T_WAKE`, `T_RESULT` are arguments of the host's read
(Machine/HostRead.lean). -/

namespace Sys2Proof

/-- `CRC_INIT`: initial value of the accumulator (00_scope.md R7). -/
def Config.crcInit : Word := 0xFFFF

/-- `CRC_POLY`: XORed in after a shift that dropped a 1 (00_scope.md R7). -/
def Config.crcPoly : Word := 0xA001

/-- `FRAME_LEN`: bytes of a raw response frame, cells of `FB` (00_scope.md R7, 20_memory.md R50). -/
def Config.frameLen : Nat := 8

/-- `FUNC_CODE`: required value of frame byte 0 (00_scope.md R7). -/
def Config.funcCode : Byte := 0x03

/-- `REG_COUNT`: required value of frame byte 1 (00_scope.md R7, 90_conflicts.md C3). -/
def Config.regCount : Byte := 0x04

/-- `SCALE_DIV`: divisor of the scaler (00_scope.md R7). -/
def Config.scaleDiv : Nat := 10

/-- What an unlisted cell of `FB` reads as: its reset value (10_state.md R35). -/
def Config.cellFill : Byte := 0x00

/-- The sensor's 7-bit bus address, host side only (43_host_sequencer.md R151). -/
def Config.sensorAddress : BitVec 7 := 0x5C

/-- Payload of the wake pulse, host side only (43_host_sequencer.md R151, R154). -/
def Config.wakePayload : List Byte := [0x00]

/-- Payload of the command write, host side only (43_host_sequencer.md R151, R156). -/
def Config.commandPayload : List Byte := [0x03, 0x00, 0x04]

/-- Bounds of `T_WAKE` in microseconds (00_scope.md R8, 43_host_sequencer.md R155). -/
def Config.wakeMin : Nat := 800

/-- See `Config.wakeMin`. -/
def Config.wakeMax : Nat := 3000

/-- Lower bound of `T_RESULT` in microseconds; no upper bound is given (43_host_sequencer.md R157). -/
def Config.resultMin : Nat := 1500

/-- FREE VALUE: what `WP` holds after FPUSH of a byte at `WP = 15`. The rule's `WP + 1` is 16, which 4 bits do not hold,
and the spec states no result (42_frame_check.md R133; 41_decode_scale.md R112 (g) has `WP <= 7` only). Only a state before
the first reset step meets it (93_implementation_defined.md U4). DESIGN CHOICE (log 16). Safe. -/
opaque Config.pointerPastEnd : Byte → BitVec 4

end Sys2Proof
end

