-- ==== Sys2Proof/Syntax.lean ====
section
/-! DEFINITION. The commands of the block (30_encoding.md R73), their formats (R71), the shape of an opcode-table row, and
the pseudo-commands (R83). -/

namespace Sys2Proof

/-- The eight commands, one constructor per row of the opcode table (30_encoding.md R73). The operands have exactly the
widths of R72, so every value of this type is a command. -/
inductive Instr where
  | crcinit
  | crcbyte (b : Byte)
  | combine (h l : Byte)
  | scale (v : Word)
  | decode (h l : Byte)
  | fclr
  | fpush (b : Byte)
  | fchk
  deriving DecidableEq, Repr

/-- The four formats (30_encoding.md R71): which of the bytes `A` and `B` are operands and which must be zero. -/
inductive Format where
  | N
  | B
  | H
  | W
  deriving DecidableEq, Repr

/-- One row of the opcode table (30_encoding.md R73): a word `w` belongs to it when `w AND mask == pattern`. -/
structure Row where
  mnemonic : String
  format   : Format
  pattern  : CmdWord
  mask     : CmdWord
  deriving DecidableEq, Repr

/-- The pseudo-commands, abbreviations for sequences of commands (30_encoding.md R83). -/
inductive Pseudo where
  | crc16 (bs : List Byte)
  | frame (bs : List Byte)
  | validate (bs : List Byte)
  deriving DecidableEq, Repr

end Sys2Proof
end

