-- ==== Sys2Proof/WellFormed.lean ====
section
/-! DEFINITION. The checks on what a host writes that the types do not make by themselves: the must-be-zero bytes of a
format (30_encoding.md R71) and the length of a pseudo-command's frame (R83). A term of `Instr` needs no check: every
operand value of every command is legal (30_encoding.md R72, R73; 41_decode_scale.md R113 "every operand pair is legal"). -/

namespace Sys2Proof

/-- Does the format admit operand bytes `A`, `B`: is every must-be-zero byte zero (30_encoding.md R71)? -/
def Format.admits : Format → Byte → Byte → Bool
  | .N, a, b => a == 0 && b == 0
  | .B, a, _ => a == 0
  | .H, _, _ => true
  | .W, _, _ => true

/-- FRAME and VALIDATE take exactly 8 bytes, CRC16 any number (30_encoding.md R83). -/
def Pseudo.wellFormed : Pseudo → Bool
  | .crc16 _ => true
  | .frame bs => bs.length == Config.frameLen
  | .validate bs => bs.length == Config.frameLen

end Sys2Proof
end

