-- ==== Sys2Proof/Decode.lean ====
section
/-! DEFINITION. Fields of a command word (30_encoding.md R70, R72), the opcode table (R73), the decoder and encoder (R80),
and why a word is illegal (R81). -/

namespace Sys2Proof

/-- Bits 23:16, the opcode (30_encoding.md R70). -/
def opField (w : CmdWord) : Byte := w.extractLsb' 16 8

/-- Bits 15:8, operand byte A (30_encoding.md R70). -/
def aField (w : CmdWord) : Byte := w.extractLsb' 8 8

/-- Bits 7:0, operand byte B (30_encoding.md R70). -/
def bField (w : CmdWord) : Byte := w.extractLsb' 0 8

/-- Bits 15:0, the operand of format W: `{A, B}` (30_encoding.md R72, R80). -/
def vField (w : CmdWord) : Word := aField w ++ bField w

/-- The decoder (30_encoding.md R80): `none` on every illegal word. -/
def decode (w : CmdWord) : Option Instr :=
  if opField w = 0x01 ∧ aField w = 0 ∧ bField w = 0 then some .crcinit
  else if opField w = 0x02 ∧ aField w = 0 then some (.crcbyte (bField w))
  else if opField w = 0x03 then some (.combine (aField w) (bField w))
  else if opField w = 0x04 then some (.scale (vField w))
  else if opField w = 0x05 then some (.decode (aField w) (bField w))
  else if opField w = 0x10 ∧ aField w = 0 ∧ bField w = 0 then some .fclr
  else if opField w = 0x11 ∧ aField w = 0 then some (.fpush (bField w))
  else if opField w = 0x12 ∧ aField w = 0 ∧ bField w = 0 then some .fchk
  else none

/-- The encoder, the decoder's inverse on commands (30_encoding.md R80). -/
def encode : Instr → CmdWord
  | .crcinit => 0x010000
  | .crcbyte b => 0x020000 ||| b.setWidth 24
  | .combine h l => 0x030000 ||| (h.setWidth 24 <<< 8) ||| l.setWidth 24
  | .scale v => 0x040000 ||| v.setWidth 24
  | .decode h l => 0x050000 ||| (h.setWidth 24 <<< 8) ||| l.setWidth 24
  | .fclr => 0x100000
  | .fpush b => 0x110000 ||| b.setWidth 24
  | .fchk => 0x120000

/-- The opcode table, row for row as 30_encoding.md R73 prints it. -/
def opcodeTable : List Row :=
  [ ⟨"CRCINIT", .N, 0x010000, 0xFFFFFF⟩,
    ⟨"CRCBYTE", .B, 0x020000, 0xFFFF00⟩,
    ⟨"COMBINE", .H, 0x030000, 0xFF0000⟩,
    ⟨"SCALE", .W, 0x040000, 0xFF0000⟩,
    ⟨"DECODE", .H, 0x050000, 0xFF0000⟩,
    ⟨"FCLR", .N, 0x100000, 0xFFFFFF⟩,
    ⟨"FPUSH", .B, 0x110000, 0xFFFF00⟩,
    ⟨"FCHK", .N, 0x120000, 0xFFFFFF⟩ ]

/-- Does the word belong to the row: `w AND mask == match` (30_encoding.md R73)? -/
def Row.holds (r : Row) (w : CmdWord) : Bool := w &&& r.mask == r.pattern

/-- A command's mnemonic (30_encoding.md R73). -/
def Instr.mnemonic : Instr → String
  | .crcinit => "CRCINIT"
  | .crcbyte _ => "CRCBYTE"
  | .combine _ _ => "COMBINE"
  | .scale _ => "SCALE"
  | .decode _ _ => "DECODE"
  | .fclr => "FCLR"
  | .fpush _ => "FPUSH"
  | .fchk => "FCHK"

/-- A command's format (30_encoding.md R71). -/
def Instr.format : Instr → Format
  | .crcinit => .N
  | .crcbyte _ => .B
  | .combine _ _ => .H
  | .scale _ => .W
  | .decode _ _ => .H
  | .fclr => .N
  | .fpush _ => .B
  | .fchk => .N

/-- The format that belongs to an assigned opcode, `none` for a reserved one (30_encoding.md R73, R81). -/
def formatOf (op : Byte) : Option Format :=
  if op = 0x01 ∨ op = 0x10 ∨ op = 0x12 then some .N
  else if op = 0x02 ∨ op = 0x11 then some .B
  else if op = 0x03 ∨ op = 0x05 then some .H
  else if op = 0x04 then some .W
  else none

/-- Why a word is illegal (30_encoding.md R81). -/
inductive Illegal where
  /-- `OP` is assigned to no command. -/
  | reservedOpcode (op : Byte)
  /-- `OP` is assigned and a must-be-zero byte is not zero. -/
  | mustBeZero (f : Format) (a b : Byte)
  deriving DecidableEq, Repr

/-- The reason a word is illegal, by name; `none` for a legal word (30_encoding.md R81). -/
def illegalReason (w : CmdWord) : Option Illegal :=
  match formatOf (opField w) with
  | none => some (.reservedOpcode (opField w))
  | some f => if f.admits (aField w) (bField w) then none else some (.mustBeZero f (aField w) (bField w))

/-- The value of a table word's low `nbits` bits (the bits above them are zero). -/
def tableValue (nbits w : Nat) : Nat := w % 2 ^ nbits

/-- The decoder on a word numbered as spec/opcode_table.json numbers it: bit 0 the least significant bit of the one
24-bit word. A value that does not fit the 24-bit port is no command (30_encoding.md R70). -/
def decodeTableWord (nbits w : Nat) : Option Instr :=
  if tableValue nbits w < 2 ^ 24 then decode (BitVec.ofNat 24 (tableValue nbits w)) else none

end Sys2Proof
end

