-- ==== Sys2Proof/Machine/State.lean ====
section
/-! DEFINITION. The state of the block (10_state.md R20, R34), the input ports (R40), the reset state (R35,
70_reset_and_hazards.md R210), and the reasons a step of the model can stop. -/

namespace Sys2Proof.Machine

/-- The frame buffer: (index, byte) pairs, indices strictly rising and below 8, no byte equal to what an unlisted cell
reads as (20_memory.md R50; `Memory.wf`). -/
abbrev Memory := List Host.Cell

/-- The input ports as sampled at one rising edge (10_state.md R40). -/
structure PortSample where
  rst      : BitVec 1
  cmdValid : BitVec 1
  cmd      : CmdWord
  deriving DecidableEq, Repr

/-- What a sampled input means (00_scope.md R10). -/
inductive Input where
  | reset
  | idle
  | cmd (w : CmdWord)
  deriving DecidableEq, Repr

/-- The whole state (10_state.md R20), and, as the model's own field, the samples of the coming edges. -/
structure State where
  /-- `ACC`, the CRC accumulator (R21). -/
  acc    : Word
  /-- `RAW`, the last combined byte pair (R22). -/
  raw    : Word
  /-- `SQ`, integer part of the last scaled value (R23). -/
  sq     : BitVec 13
  /-- `SR`, tenths digit of the last scaled value (R23). -/
  sr     : BitVec 4
  /-- `FB[0..7]`, the frame buffer (R24). -/
  fb     : Memory
  /-- `WP`, number of frame bytes loaded (R26). -/
  wp     : BitVec 4
  /-- `RES`, result of the last frame check (R28). -/
  res    : BitVec 2
  /-- `MH_I`, humidity, integer part (R25). -/
  mhI    : BitVec 13
  /-- `MH_T`, humidity, tenths digit (R25). -/
  mhT    : BitVec 4
  /-- `MT_I`, temperature, integer part (R25). -/
  mtI    : BitVec 13
  /-- `MT_T`, temperature, tenths digit (R25). -/
  mtT    : BitVec 4
  /-- `FAULT`, the sticky usage-fault flag (R29). -/
  fault  : BitVec 1
  /-- `FCODE`, cause of the first fault (R29). -/
  fcode  : BitVec 2
  /-- DESIGN CHOICE (log 1): the model's own field, the samples of the coming edges, the next one first. Safe. -/
  inputs : List PortSample
  deriving DecidableEq, Repr

/-- `reset_state` (10_state.md R35, 70_reset_and_hazards.md R210), with no coming edge listed (log 1). -/
def State.reset : State where
  acc    := Config.crcInit
  raw    := 0
  sq     := 0
  sr     := 0
  fb     := []
  wp     := 0
  res    := 0
  mhI    := 0
  mhT    := 0
  mtI    := 0
  mtT    := 0
  fault  := 0
  fcode  := 0
  inputs := []

/-- The reasons the MODEL stops. A usage fault of the block is no such stop: it is a next state with `FAULT = 1`
(00_scope.md R10, 60_exceptions.md R185). -/
inductive Fault where
  /-- An access to an index with no cell of `FB` (00_scope.md R14). Raised by no step and by no command: every step has a
  next state (R10, log 9). Safe. -/
  | noSuchCell (index : Nat)
  deriving DecidableEq, Repr

/-- The reasons the model refuses a command. -/
inductive Refusal where
  /-- A command with no meaning in the model. Raised by no arm of `exec`. Safe. -/
  | notModelled (mnemonic : String)
  deriving DecidableEq, Repr

/-- What a step answers. -/
abbrev Result := Host.Outcome State Fault Refusal

end Sys2Proof.Machine
end

