-- ==== Sys2Proof/Machine/Flags.lean ====
section
/-! DEFINITION. The flag-like state (10_state.md R28, R29, R37): the values of `RES` and `FCODE`, and what is computed from
them for the ports (R30, R41). -/

namespace Sys2Proof.Machine

/-- `RES` = `NONE`: no FCHK since the last FCLR or reset (10_state.md R28). -/
def Res.none : BitVec 2 := 0

/-- `RES` = `OK`: the frame passed both checks (10_state.md R28). -/
def Res.ok : BitVec 2 := 1

/-- `RES` = `SENSOR_ERR`: the frame failed a check (10_state.md R28). -/
def Res.sensorErr : BitVec 2 := 2

/-- `FCODE` = `ILLEGAL` (10_state.md R29). -/
def FCode.illegal : BitVec 2 := 1

/-- `FCODE` = `FRAME_OVERFLOW` (10_state.md R29). -/
def FCode.frameOverflow : BitVec 2 := 2

/-- `FCODE` = `FRAME_INCOMPLETE` (10_state.md R29). -/
def FCode.frameIncomplete : BitVec 2 := 3

/-- Port `meas_valid`: 1 if `RES = 1`, else 0 (10_state.md R41). -/
def State.measValid (s : State) : BitVec 1 := if s.res = Res.ok then 1 else 0

/-- Port `sensor_err`: 1 if `RES = 2`, else 0 (10_state.md R41). -/
def State.sensorErr (s : State) : BitVec 1 := if s.res = Res.sensorErr then 1 else 0

/-- `STATUS`: bits 3:0 `WP`, 5:4 `RES`, 7:6 `FCODE`, 8 `FAULT`, 15:9 zero (10_state.md R30). -/
def State.status (s : State) : BitVec 16 := (0 : BitVec 7) ++ s.fault ++ s.fcode ++ s.res ++ s.wp

end Sys2Proof.Machine
end

