-- ==== Sys2Proof/Machine/Ops.lean ====
section
/-! DEFINITION. The named operations over the frame buffer and the registers, the sampling of the input ports, the reset
step, and fault entry. There is no return from a fault but the reset step (60_exceptions.md R188). -/

namespace Sys2Proof.Machine

/-! ### The frame buffer (20_memory.md) -/

/-- The byte listed at an index, or what an unlisted cell reads as. -/
def Memory.lookup : Memory → Nat → Byte
  | [], _ => Config.cellFill
  | (k, v) :: rest, a => if k = a then v else Memory.lookup rest a

/-- Take every entry of an index off the list. -/
def Memory.erase : Memory → Nat → Memory
  | [], _ => []
  | (k, v) :: rest, a => if k = a then Memory.erase rest a else (k, v) :: Memory.erase rest a

/-- List an entry before the first one of a higher index. -/
def Memory.insert : Memory → Nat → Byte → Memory
  | [], a, b => [(a, b)]
  | (k, v) :: rest, a, b => if a < k then (a, b) :: (k, v) :: rest else (k, v) :: Memory.insert rest a b

/-- Write a byte at an index, keeping the canonical form: what an unlisted cell reads as is not listed. -/
def Memory.put (m : Memory) (a : Nat) (b : Byte) : Memory :=
  if b = Config.cellFill then m.erase a else (m.erase a).insert a b

/-- Entries at `lo` or above, indices strictly rising and below 8, none equal to what an unlisted cell reads as. -/
def Memory.wfFrom : Nat → Memory → Bool
  | _, [] => true
  | lo, (k, v) :: rest => decide (lo ≤ k) && decide (k < Config.frameLen) && v != Config.cellFill && Memory.wfFrom (k + 1) rest

/-- The canonical form of the frame buffer. -/
def Memory.wf (m : Memory) : Bool := Memory.wfFrom 0 m

/-- `MemRead(i, 1)`: `FB[i]` for `i` 0 to 7, no other address exists (00_scope.md R14). -/
def Memory.read (m : Memory) (i : Nat) : Option Byte :=
  if i < Config.frameLen then some (m.lookup i) else none

/-- A raw response frame: exactly 8 bytes (42_frame_check.md R130). -/
abbrev Frame := Vector Byte 8

/-- `[FB[0], ..., FB[7]]`, all eight cells (42_frame_check.md R135, 20_memory.md R56). -/
def Memory.frame (m : Memory) : Frame :=
  #v[m.lookup 0, m.lookup 1, m.lookup 2, m.lookup 3, m.lookup 4, m.lookup 5, m.lookup 6, m.lookup 7]

/-- `MemWrite(i, 1, v)` on the state: `FB[i] <- v`. An index with no cell names none of `FB[0..7]`, and what a rule does not
name as written keeps its value (00_scope.md R13, R14; 20_memory.md R51). DEDUCED (log 5). -/
def State.storeCell (s : State) (i : Nat) (b : Byte) : State :=
  if i < Config.frameLen then { s with fb := s.fb.put i b } else s

/-! ### Registers -/

/-- `ACC <- v`. -/
def State.setAcc (s : State) (v : Word) : State := { s with acc := v }

/-- `RAW <- v`. -/
def State.setRaw (s : State) (v : Word) : State := { s with raw := v }

/-- `SQ <- int`, `SR <- tenths`. -/
def State.setScaled (s : State) (p : Scaled) : State := { s with sq := p.int, sr := p.tenths }

/-- `WP <- v`. -/
def State.setWp (s : State) (v : BitVec 4) : State := { s with wp := v }

/-- `RES <- r` and the four measurement registers. -/
def State.setCheck (s : State) (r : BitVec 2) (hum tmp : Scaled) : State :=
  { s with res := r, mhI := hum.int, mhT := hum.tenths, mtI := tmp.int, mtT := tmp.tenths }

/-- The value the measurement registers hold when there is no valid measurement (10_state.md R31 (d)). -/
def zeroScaled : Scaled := ⟨0, 0⟩

/-- `WP + 1` after FPUSH of `b` (42_frame_check.md R133); at 15, where 4 bits do not hold it, a free value (log 16). -/
def nextPointer (wp : BitVec 4) (b : Byte) : BitVec 4 := if wp = 15 then Config.pointerPastEnd b else wp + 1

/-! ### Fault entry (60_exceptions.md) -/

/-- `raise Fault(code)`: `FAULT <- 1`, `FCODE <- code`, nothing else (00_scope.md R15, 60_exceptions.md R185). -/
def State.raiseFault (s : State) (code : BitVec 2) : State := { s with fault := 1, fcode := code }

/-- The freeze: while `FAULT = 1` a command leaves the state unchanged, for every command and for every illegal word
(60_exceptions.md R187, R186 (3)). Every meaning, and the illegal word's, goes through it (log 7). -/
def unlessFaulted (s : State) (r : Result) : Result := if s.fault = 1 then .next s else r

/-- Go on from a next state; a stop stays what it is. -/
def andThen (r : Result) (k : State → Result) : Result :=
  match r with
  | .next s => k s
  | .fault e => .fault e
  | .refused e => .refused e

/-- A command word that `decode` rejects: `Fault(ILLEGAL)` (60_exceptions.md R183, 30_encoding.md R81). -/
def raiseIllegal (s : State) : Result := unlessFaulted s (.next (s.raiseFault FCode.illegal))

/-! ### The input ports and the reset step -/

/-- What one sample means: `rst` first, then `cmd_valid` (00_scope.md R10, 10_state.md R40). -/
def PortSample.input (p : PortSample) : Input :=
  if p.rst = 1 then .reset else if p.cmdValid = 1 then .cmd p.cmd else .idle

/-- What the coming edge samples. DESIGN CHOICE (log 2): an edge with no listed sample is idle. Safe. -/
def State.sampled (s : State) : Input :=
  match s.inputs with
  | [] => .idle
  | p :: _ => p.input

/-- The state with the coming edge's sample taken off the list. -/
def State.consume (s : State) : State := { s with inputs := s.inputs.tail }

/-- The reset step: `reset_state`, whatever the state was; the coming samples are the host's and stay
(70_reset_and_hazards.md R210). -/
def State.resetStep (s : State) : State := { State.reset with inputs := s.inputs }

/-- The sample that presents a command word: `rst = 0`, `cmd_valid = 1` (10_state.md R40). -/
def cmdSample (w : CmdWord) : PortSample := ⟨0, 1, w⟩

/-- The sample that presents a command (30_encoding.md R80). -/
def issue (i : Instr) : PortSample := cmdSample (encode i)

/-- The state with these samples ahead of those already listed. -/
def State.presented (s : State) (ps : List PortSample) : State := { s with inputs := ps ++ s.inputs }

end Sys2Proof.Machine
end

