-- ==== Sys2Proof/Machine/Crc.lean ====
section
/-! DEFINITION. The CRC unit (40_crc.md): `crc_step`, `crc16`, CRCINIT, CRCBYTE. -/

namespace Sys2Proof.Machine

/-- One of the eight iterations: logical shift right by 1, XOR with `0xA001` when a 1 is shifted out (40_crc.md R90). -/
def crcShift (a : Word) : Word := if a.getLsbD 0 then (a >>> 1) ^^^ Config.crcPoly else a >>> 1

/-- `n` iterations of `crcShift`. -/
def crcShifts : Nat → Word → Word
  | 0, a => a
  | n + 1, a => crcShifts n (crcShift a)

/-- `crc_step(acc, b)`: XOR the byte into bits 7:0, then eight iterations (40_crc.md R90). -/
def crcStep (acc : Word) (b : Byte) : Word := crcShifts 8 (acc ^^^ b.setWidth 16)

/-- `crc16(bytes)`: the left fold of `crc_step` from `0xFFFF` (40_crc.md R91). -/
def crc16 (bytes : List Byte) : Word := bytes.foldl crcStep Config.crcInit

/-- CRCINIT (40_crc.md R94). -/
def execCrcinit (s : State) : Result := unlessFaulted s (.next (s.setAcc Config.crcInit))

/-- CRCBYTE b (40_crc.md R95). -/
def execCrcbyte (b : Byte) (s : State) : Result := unlessFaulted s (.next (s.setAcc (crcStep s.acc b)))

end Sys2Proof.Machine
end

