-- ==== Sys2Proof/Machine/Operands.lean ====
section
/-! DEFINITION. The pure functions on operands (00_scope.md R16): `combine` and `scale10` of 41_decode_scale.md. The
operand fields of a command word themselves are taken in Decode.lean (30_encoding.md R72). -/

namespace Sys2Proof.Machine

/-- `combine(h, l)`: `h` the most significant byte (41_decode_scale.md R110). -/
def combine (h l : Byte) : Word := (h.setWidth 16 <<< 8) ||| l.setWidth 16

/-- `scale10(v) = (v div 10, v mod 10)`, `v` unsigned (41_decode_scale.md R111, R118). -/
def scale10 (v : Word) : Scaled where
  int    := BitVec.ofNat 13 (v.toNat / Config.scaleDiv)
  tenths := BitVec.ofNat 4 (v.toNat % Config.scaleDiv)

end Sys2Proof.Machine
end

