-- ==== Sys2Proof/Machine/DecodeUnit.lean ====
section
/-! DEFINITION. The decode unit (41_decode_scale.md): COMBINE, SCALE, DECODE. -/

namespace Sys2Proof.Machine

/-- COMBINE h, l (41_decode_scale.md R113). -/
def execCombine (h l : Byte) (s : State) : Result := unlessFaulted s (.next (s.setRaw (combine h l)))

/-- SCALE v (41_decode_scale.md R114). -/
def execScale (v : Word) (s : State) : Result := unlessFaulted s (.next (s.setScaled (scale10 v)))

/-- DECODE h, l (41_decode_scale.md R115). -/
def execDecode (h l : Byte) (s : State) : Result :=
  unlessFaulted s (.next ((s.setRaw (combine h l)).setScaled (scale10 (combine h l))))

end Sys2Proof.Machine
end

