-- ==== Sys2Proof/Machine/FrameUnit.lean ====
section
/-! DEFINITION. The frame unit (42_frame_check.md): `validate`, FCLR, FPUSH, FCHK. -/

namespace Sys2Proof.Machine

/-- What `validate` returns (42_frame_check.md R131). -/
inductive CheckResult where
  | sensorErr
  | ok (hum tmp : Scaled)
  deriving DecidableEq, Repr

/-- Step 6: the header check (42_frame_check.md R131). -/
def headerOk (f : Frame) : Bool := f[0] == Config.funcCode && f[1] == Config.regCount

/-- Step 7: the checksum over offsets 0 to 5 against `{f[7], f[6]}` (42_frame_check.md R131). -/
def checksumOk (f : Frame) : Bool := crc16 [f[0], f[1], f[2], f[3], f[4], f[5]] == combine f[7] f[6]

/-- `validate(f)`: header, then checksum, then decode and scale (42_frame_check.md R131). Both fields are unsigned and no
range is checked (R139, 41_decode_scale.md R118). -/
def validate (f : Frame) : CheckResult :=
  if headerOk f then
    if checksumOk f then .ok (scale10 (combine f[2] f[3])) (scale10 (combine f[4] f[5]))
    else .sensorErr
  else .sensorErr

/-- What FCHK writes for a check's outcome (42_frame_check.md R135). -/
def State.recordCheck (s : State) : CheckResult → State
  | .sensorErr => s.setCheck Res.sensorErr zeroScaled zeroScaled
  | .ok hum tmp => s.setCheck Res.ok hum tmp

/-- FCLR (42_frame_check.md R132); `FB` keeps its bytes (20_memory.md R52). -/
def execFclr (s : State) : Result :=
  unlessFaulted s (.next ((s.setWp 0).setCheck Res.none zeroScaled zeroScaled))

/-- FPUSH b (42_frame_check.md R133): the store's address is the old `WP`. A next state at every `WP`, also at 9 to 15, which
only a state before the first reset holds (00_scope.md R10, 93_implementation_defined.md U4; log 5, 16). -/
def execFpush (b : Byte) (s : State) : Result :=
  unlessFaulted s
    (if s.wp = 8 then .next (s.raiseFault FCode.frameOverflow)
     else .next ((s.storeCell s.wp.toNat b).setWp (nextPointer s.wp b)))

/-- FCHK (42_frame_check.md R135). -/
def execFchk (s : State) : Result :=
  unlessFaulted s
    (if s.wp = 8 then .next (s.recordCheck (validate s.fb.frame))
     else .next (s.raiseFault FCode.frameIncomplete))

end Sys2Proof.Machine
end

