-- ==== Sys2Proof/Machine/Dispatch.lean ====
section
/-! DEFINITION. One arm per command (30_encoding.md R73), each one call of the command's meaning. -/

namespace Sys2Proof.Machine

def exec (i : Instr) (s : State) : Host.Outcome State Fault Refusal :=
  match i with
  | .crcinit => Sys2Proof.Machine.execCrcinit s
  | .crcbyte b => Sys2Proof.Machine.execCrcbyte b s
  | .combine h l => Sys2Proof.Machine.execCombine h l s
  | .scale v => Sys2Proof.Machine.execScale v s
  | .decode h l => Sys2Proof.Machine.execDecode h l s
  | .fclr => Sys2Proof.Machine.execFclr s
  | .fpush b => Sys2Proof.Machine.execFpush b s
  | .fchk => Sys2Proof.Machine.execFchk s

end Sys2Proof.Machine
end

