-- ==== Sys2Proof/Machine/Step.lean ====
section
/-! DEFINITION. One step of the block, at one rising edge (00_scope.md R10), and the presentation of a table word. -/

namespace Sys2Proof.Machine

/-- `step(S, in)`, the input taken from the head of `inputs` (00_scope.md R10, 60_exceptions.md R186). The freeze stands in
`exec`'s meanings and in `raiseIllegal` (log 7). -/
def step (s : State) : Host.Outcome State Fault Refusal :=
  match s.sampled with
  | .reset => .next s.consume.resetStep
  | .idle => .next s.consume
  | .cmd w =>
    match decode w with
    | some i => exec i s.consume
    | none => raiseIllegal s.consume

/-- The state in which the coming edge presents the table word `w`: one command sample ahead of those listed (log 3). -/
def State.withFetchWord (s : State) (nbits w : Nat) : State :=
  s.presented [cmdSample (BitVec.ofNat 24 (tableValue nbits w))]

end Sys2Proof.Machine
end

