-- ==== Sys2Proof/Machine/Ports.lean ====
section
/-! DEFINITION. The output ports: functions of the state alone (10_state.md R41, 00_scope.md R11). `FB` is on none. -/

namespace Sys2Proof.Machine

/-- The twelve output ports (10_state.md R41). -/
structure Ports where
  crcOut    : BitVec 16
  rawOut    : BitVec 16
  scInt     : BitVec 13
  scTenth   : BitVec 4
  humInt    : BitVec 13
  humTenth  : BitVec 4
  tmpInt    : BitVec 13
  tmpTenth  : BitVec 4
  measValid : BitVec 1
  sensorErr : BitVec 1
  fault     : BitVec 1
  status    : BitVec 16
  deriving DecidableEq, Repr

/-- What the ports show in a state (10_state.md R41). -/
def State.ports (s : State) : Ports where
  crcOut    := s.acc
  rawOut    := s.raw
  scInt     := s.sq
  scTenth   := s.sr
  humInt    := s.mhI
  humTenth  := s.mhT
  tmpInt    := s.mtI
  tmpTenth  := s.mtT
  measValid := s.measValid
  sensorErr := s.sensorErr
  fault     := s.fault
  status    := s.status

end Sys2Proof.Machine
end

