-- ==== Sys2Proof/Machine/Run.lean ====
section
/-! DEFINITION. A finite sequence of presented inputs (00_scope.md R11), what a sample is to the command stream, and the
pseudo-commands (30_encoding.md R83). -/

namespace Sys2Proof.Machine

/-- What one edge does when this sample is presented at it (00_scope.md R10). -/
def State.edge (s : State) (p : PortSample) : Result := step (s.presented [p])

/-- The state after the host has presented these samples, one per edge, ahead of those already listed (00_scope.md R11). -/
def State.play (s : State) (ps : List PortSample) : Result := Host.Core.run Sys2Proof.core ps.length (s.presented ps)

/-- The command a sample presents, `none` for a reset, an idle edge or an illegal word. -/
def PortSample.command (p : PortSample) : Option Instr :=
  match p.input with
  | .cmd w => decode w
  | .reset => none
  | .idle => none

/-- The byte that a sample feeds to the CRC unit (40_crc.md R96). -/
def PortSample.crcByte (p : PortSample) : Option Byte :=
  match p.command with
  | some (.crcbyte b) => some b
  | _ => none

/-- The byte that a sample pushes into the frame (42_frame_check.md R134). -/
def PortSample.frameByte (p : PortSample) : Option Byte :=
  match p.command with
  | some (.fpush b) => some b
  | _ => none

end Sys2Proof.Machine

namespace Sys2Proof

/-- The commands a pseudo-command stands for, in order (30_encoding.md R83). -/
def Pseudo.expand : Pseudo → List Instr
  | .crc16 bs => .crcinit :: bs.map .crcbyte
  | .frame bs => .fclr :: bs.map .fpush
  | .validate bs => (.fclr :: bs.map .fpush) ++ [.fchk]

end Sys2Proof
end

