-- ==== Sys2Proof/Machine/HostRead.lean ====
section
/-! DEFINITION. The host's `read()` (43_host_sequencer.md R153 to R165): software around the block, which has no state in
the spec (00_scope.md R9). What the bus answers is an argument, what the host does on the bus is a list of actions, and
steps 6 to 8 are commands presented to the block (R160). -/

namespace Sys2Proof.Machine

/-- The host's three primitives (43_host_sequencer.md R150); `delay_microseconds` takes a 16-bit count. -/
inductive BusAction where
  | write (address : BitVec 7) (payload : List Byte)
  | delay (microseconds : BitVec 16)
  | read (address : BitVec 7) (length : Nat)
  deriving DecidableEq, Repr

/-- What the bus answers in one read. The content of `BusError` is opaque, only success or failure is kept
(43_host_sequencer.md R150, 93_implementation_defined.md U9). -/
structure BusAnswers where
  /-- Did the wake write succeed; deliberately discarded (R154). -/
  wakeOk    : Bool
  /-- Did the command write succeed (R156). -/
  commandOk : Bool
  /-- The eight bytes of the response read, `none` if it failed (R158). -/
  response  : Option Frame
  deriving DecidableEq, Repr

/-- The two delays, open parameters (43_host_sequencer.md R155, R157; 00_scope.md R8). -/
structure Delays where
  wake   : BitVec 16
  result : BitVec 16
  deriving DecidableEq, Repr

/-- The windows the delays must lie in (43_host_sequencer.md R155, R157). -/
def Delays.allowed (d : Delays) : Bool :=
  decide (Config.wakeMin ≤ d.wake.toNat) && decide (d.wake.toNat ≤ Config.wakeMax)
    && decide (Config.resultMin ≤ d.result.toNat)

/-- The three error kinds, no sub-kinds (43_host_sequencer.md R162). -/
inductive ReadError where
  | writeFailure
  | readFailure
  | sensorFailure
  deriving DecidableEq, Repr

/-- A measurement: humidity in percent, temperature in degrees Celsius (10_state.md R25, 43_host_sequencer.md R161). -/
structure Measurement where
  humidity    : Scaled
  temperature : Scaled
  deriving DecidableEq, Repr

/-- What a read returns (43_host_sequencer.md R153, R161). -/
inductive ReadResult where
  | ok (m : Measurement)
  | error (e : ReadError)
  /-- `fault = 1`: the host has misused the port and must reset the block (R161). -/
  | portFault
  /-- No port of R161 is 1, or the model stopped. DESIGN CHOICE (log 11): named, met by no run of a read. Safe. -/
  | unanswered
  deriving DecidableEq, Repr

/-- One read: its bus actions in order, its result, and the block afterwards. -/
structure ReadRun where
  actions : List BusAction
  result  : ReadResult
  block   : State
  deriving DecidableEq, Repr

/-- Steps 1 to 3 on the bus: wake pulse, settle delay, command write (43_host_sequencer.md R154 to R156). -/
def wakeActions (d : Delays) : List BusAction :=
  [.write Config.sensorAddress Config.wakePayload, .delay d.wake, .write Config.sensorAddress Config.commandPayload]

/-- Steps 4 and 5 on the bus: result-ready delay, response read (43_host_sequencer.md R157, R158). -/
def fetchActions (d : Delays) : List BusAction :=
  [.delay d.result, .read Config.sensorAddress Config.frameLen]

/-- The samples of `VALIDATE f` (43_host_sequencer.md R160). -/
def validateSamples (f : Frame) : List PortSample := (Pseudo.validate f.toList).expand.map issue

/-- The result the host reads off the ports; a fault first, since no port then shows a result (43_host_sequencer.md R161,
60_exceptions.md R187). -/
def Ports.readResult (p : Ports) : ReadResult :=
  if p.fault = 1 then .portFault
  else if p.measValid = 1 then .ok ⟨⟨p.humInt, p.humTenth⟩, ⟨p.tmpInt, p.tmpTenth⟩⟩
  else if p.sensorErr = 1 then .error .sensorFailure
  else .unanswered

/-- `read()`: each step advances or aborts, nothing is retried (43_host_sequencer.md R153 to R163). -/
def hostRead (d : Delays) (bus : BusAnswers) (s : State) : ReadRun :=
  if bus.commandOk then
    match bus.response with
    | none => ⟨wakeActions d ++ fetchActions d, .error .readFailure, s⟩
    | some f =>
      match s.play (validateSamples f) with
      | .next t => ⟨wakeActions d ++ fetchActions d, t.ports.readResult, t⟩
      | .fault _ => ⟨wakeActions d ++ fetchActions d, .unanswered, s⟩
      | .refused _ => ⟨wakeActions d ++ fetchActions d, .unanswered, s⟩
  else ⟨wakeActions d, .error .writeFailure, s⟩

/-- Microseconds spent in delays (43_host_sequencer.md R165). -/
def delayTotal : List BusAction → Nat
  | [] => 0
  | .delay t :: rest => t.toNat + delayTotal rest
  | .write _ _ :: rest => delayTotal rest
  | .read _ _ :: rest => delayTotal rest

end Sys2Proof.Machine
end

