-- ==== Sys2Proof/Safety.lean ====
section
/-! DEFINITION. What claims are stated in: the invariant of 10_state.md R31, the units of the commands (R32), and two states that no port and no later state can tell apart (20_memory.md R53). -/

namespace Sys2Proof.Safety

open Sys2Proof.Machine

/-- A scaled pair in range: tenths 0 to 9, integer part 0 to 6553 (10_state.md R31 (c)). -/
abbrev InRange (p : Scaled) : Prop := p.tenths.toNat ≤ 9 ∧ p.int.toNat ≤ 6553

/-- The invariant of every state reachable from reset (10_state.md R31 (a) to (g)), and the model's own: the frame buffer
is in canonical form. -/
structure Inv (s : State) : Prop where
  memWf        : s.fb.wf = true
  wpRange      : s.wp.toNat ≤ 8
  resLegal     : s.res = Res.none ∨ s.res = Res.ok ∨ s.res = Res.sensorErr
  scaledRange  : InRange ⟨s.sq, s.sr⟩
  humRange     : InRange ⟨s.mhI, s.mhT⟩
  tmpRange     : InRange ⟨s.mtI, s.mtT⟩
  noStale      : s.res ≠ Res.ok → s.mhI = 0 ∧ s.mhT = 0 ∧ s.mtI = 0 ∧ s.mtT = 0
  okFrame      : s.res = Res.ok →
                   s.wp = 8 ∧ s.fb.lookup 0 = 0x03 ∧ s.fb.lookup 1 = 0x04 ∧
                   crc16 [s.fb.lookup 0, s.fb.lookup 1, s.fb.lookup 2, s.fb.lookup 3, s.fb.lookup 4, s.fb.lookup 5]
                     = s.fb.lookup 7 ++ s.fb.lookup 6 ∧
                   ⟨s.mhI, s.mhT⟩ = scale10 (combine (s.fb.lookup 2) (s.fb.lookup 3)) ∧
                   ⟨s.mtI, s.mtT⟩ = scale10 (combine (s.fb.lookup 4) (s.fb.lookup 5))
  faultCode    : s.fault = 0 ↔ s.fcode = 0
  checkedFull  : s.res ≠ Res.none → s.wp = 8

/-- Two states that differ at most in cells of `FB` at `WP` and above (20_memory.md R53). -/
structure SameVisible (s t : State) : Prop where
  acc    : t.acc = s.acc
  raw    : t.raw = s.raw
  sq     : t.sq = s.sq
  sr     : t.sr = s.sr
  wp     : t.wp = s.wp
  res    : t.res = s.res
  mhI    : t.mhI = s.mhI
  mhT    : t.mhT = s.mhT
  mtI    : t.mtI = s.mtI
  mtT    : t.mtT = s.mtT
  fault  : t.fault = s.fault
  fcode  : t.fcode = s.fcode
  inputs : t.inputs = s.inputs
  loaded : ∀ i, i < s.wp.toNat → i < 8 → t.fb.read i = s.fb.read i

/-- The commands of the CRC unit (10_state.md R32). -/
def isCrcCommand : Instr → Bool
  | .crcinit => true
  | .crcbyte _ => true
  | .combine _ _ => false
  | .scale _ => false
  | .decode _ _ => false
  | .fclr => false
  | .fpush _ => false
  | .fchk => false

/-- The commands of the decode unit (10_state.md R32). -/
def isDecodeCommand : Instr → Bool
  | .crcinit => false
  | .crcbyte _ => false
  | .combine _ _ => true
  | .scale _ => true
  | .decode _ _ => true
  | .fclr => false
  | .fpush _ => false
  | .fchk => false

/-- The commands of the frame unit (10_state.md R32). -/
def isFrameCommand : Instr → Bool
  | .crcinit => false
  | .crcbyte _ => false
  | .combine _ _ => false
  | .scale _ => false
  | .decode _ _ => false
  | .fclr => true
  | .fpush _ => true
  | .fchk => true

end Sys2Proof.Safety
end

