-- ==== Sys2Proof/Certificates/Slice0/Obligations.lean ====
section
/-! DEFINITION. The statements for the provers, from the numbered rules of spec/. None rests on a program. -/

open Sys2Proof Sys2Proof.Machine Sys2Proof.Safety

/-! ### Encoding (30_encoding.md) -/

/-- The example words of 30_encoding.md R82, and two neighbours of legal words that are illegal (95_test_vectors.md T44,
T47). -/
def Obligations.SpecWordsDecode : Prop :=
  decode 0x010000 = some .crcinit ∧ decode 0x020036 = some (.crcbyte 0x36) ∧
  decode 0x03C501 = some (.combine 0xC5 0x01) ∧ decode 0x040236 = some (.scale 566) ∧
  decode 0x050236 = some (.decode 0x02 0x36) ∧ decode 0x100000 = some .fclr ∧
  decode 0x1100DB = some (.fpush 0xDB) ∧ decode 0x120000 = some .fchk ∧
  decode 0x010001 = none ∧ decode 0x060000 = none

/-- 30_encoding.md R80: `decode` and `encode` are inverse to each other on commands, for every command with every operand,
and for every legal word. -/
def Obligations.DecodeAndEncodeAgree : Prop :=
  (∀ i : Instr, decode (encode i) = some i) ∧ ∀ (w : CmdWord) (i : Instr), decode w = some i → encode i = w

/-- 30_encoding.md R81: which words are illegal, and that executing one raises `Fault(ILLEGAL)` and changes nothing
else (60_exceptions.md R183). The last two conjuncts are the all-zero and the all-ones word. -/
def Obligations.IllegalWordsRaiseIllegal : Prop :=
  (∀ w : CmdWord, decode w = none ↔
    (opField w).toNat = 0x00 ∨ (0x06 ≤ (opField w).toNat ∧ (opField w).toNat ≤ 0x0F) ∨ 0x13 ≤ (opField w).toNat ∨
    ((opField w = 0x01 ∨ opField w = 0x10 ∨ opField w = 0x12) ∧ (aField w ≠ 0 ∨ bField w ≠ 0)) ∨
    ((opField w = 0x02 ∨ opField w = 0x11) ∧ aField w ≠ 0)) ∧
  (∀ (s : State) (p : PortSample) (rest : List PortSample),
    s.inputs = p :: rest → p.rst = 0 → p.cmdValid = 1 → s.fault = 0 → decode p.cmd = none →
    step s = .next { s with inputs := rest, fault := 1, fcode := 1 }) ∧
  decode 0x000000 = none ∧ decode 0xFFFFFF = none

/-- 30_encoding.md R73: a word lies in at most one row of the opcode table; a legal word lies in the row of its command;
an illegal word lies in none; 197123 words are legal. -/
def Obligations.OpcodeTableSelectsOneCommand : Prop :=
  (∀ (w : CmdWord) (r q : Row), r ∈ opcodeTable → q ∈ opcodeTable → r.holds w = true → q.holds w = true → r = q) ∧
  (∀ (w : CmdWord) (i : Instr), decode w = some i →
    ∃ r ∈ opcodeTable, r.holds w = true ∧ r.mnemonic = i.mnemonic ∧ r.format = i.format) ∧
  (∀ w : CmdWord, decode w = none → ∀ r ∈ opcodeTable, r.holds w = false) ∧
  Nat.card { w : CmdWord // decode w ≠ none } = 197123

/-! ### The step (00_scope.md R10, 60_exceptions.md R186) -/

/-- A step whose sample presents a command is `exec` of that command, on the state with the sample taken off the list
(the list of coming samples is the model's own field, log 1); and `withFetchWord` presents a table word so. -/
def Obligations.StepRunsTheDecodedCommand : Prop :=
  (∀ (s : State) (p : PortSample) (rest : List PortSample) (i : Instr),
    s.inputs = p :: rest → p.rst = 0 → p.cmdValid = 1 → decode p.cmd = some i →
    step s = exec i { s with inputs := rest }) ∧
  ∀ (s : State) (w : Nat) (i : Instr), w < 2 ^ 24 → decodeTableWord 24 w = some i →
    step (s.withFetchWord 24 w) = exec i s

/-- 60_exceptions.md R186: the priority of one step, highest first: reset, idle, freeze, illegal word, the command's own
precondition, the command's effect. -/
def Obligations.StepFollowsThePriority : Prop :=
  ∀ (s : State) (p : PortSample) (rest : List PortSample), s.inputs = p :: rest →
    (p.rst = 1 → step s = .next { State.reset with inputs := rest }) ∧
    (p.rst = 0 → p.cmdValid = 0 → step s = .next { s with inputs := rest }) ∧
    (p.rst = 0 → p.cmdValid = 1 → s.fault = 1 → step s = .next { s with inputs := rest }) ∧
    (p.rst = 0 → p.cmdValid = 1 → s.fault = 0 → decode p.cmd = none →
      step s = .next { s with inputs := rest, fault := 1, fcode := 1 }) ∧
    (p.rst = 0 → p.cmdValid = 1 → s.fault = 0 → s.wp = 8 → (∃ b, decode p.cmd = some (.fpush b)) →
      step s = .next { s with inputs := rest, fault := 1, fcode := 2 }) ∧
    (p.rst = 0 → p.cmdValid = 1 → s.fault = 0 → s.wp ≠ 8 → decode p.cmd = some .fchk →
      step s = .next { s with inputs := rest, fault := 1, fcode := 3 }) ∧
    (p.rst = 0 → p.cmdValid = 1 → s.fault = 0 → ∀ i, decode p.cmd = some i →
      ¬ (s.wp = 8 ∧ ∃ b, i = .fpush b) → ¬ (s.wp ≠ 8 ∧ i = .fchk) →
      step s = exec i { s with inputs := rest })

/-- 00_scope.md R10, "There are no outcomes other than a next state": in every state, also one that only a block before its
first reset step can be in, and for every input and command. -/
def Obligations.EveryStepAnswersANextState : Prop :=
  ∀ s : State, (∃ t, step s = .next t) ∧ ∀ i : Instr, ∃ t, exec i s = .next t

/-- DESIGN CHOICE (log 2), the model's own: an edge with no listed sample is idle. -/
def Obligations.UnlistedEdgeIsIdle : Prop :=
  ∀ s : State, s.inputs = [] → step s = .next s

/-- 70_reset_and_hazards.md R219, 95_test_vectors.md Part 3: idle steps may be left out or put in anywhere, the end state is
the same. -/
def Obligations.IdleStepsDoNotMatter : Prop :=
  ∀ (s : State) (ps : List PortSample), s.play (ps.filter fun p => decide (p.input ≠ .idle)) = s.play ps

/-! ### Reset (70_reset_and_hazards.md, 10_state.md R35) -/

/-- 10_state.md R35: the value of every piece of state in `reset_state`. -/
def Obligations.ResetStateValues : Prop :=
  State.reset.acc = 0xFFFF ∧ State.reset.raw = 0x0000 ∧ State.reset.sq = 0 ∧ State.reset.sr = 0 ∧
  (∀ i, i < 8 → State.reset.fb.read i = some 0x00) ∧ State.reset.wp = 0 ∧ State.reset.res = 0 ∧
  State.reset.mhI = 0 ∧ State.reset.mhT = 0 ∧ State.reset.mtI = 0 ∧ State.reset.mtT = 0 ∧
  State.reset.fault = 0 ∧ State.reset.fcode = 0 ∧ State.reset.status = 0x0000

/-- 70_reset_and_hazards.md R210: a reset step gives `reset_state` from every state, whatever else is presented. -/
def Obligations.ResetStepFromEveryState : Prop :=
  ∀ (s : State) (p : PortSample) (rest : List PortSample), s.inputs = p :: rest → p.rst = 1 →
    ∃ t, step s = .next t ∧ t.inputs = rest ∧ t.acc = 0xFFFF ∧ t.raw = 0 ∧ t.sq = 0 ∧ t.sr = 0 ∧
      (∀ i, i < 8 → t.fb.read i = some 0x00) ∧ t.wp = 0 ∧ t.res = 0 ∧ t.mhI = 0 ∧ t.mhT = 0 ∧ t.mtI = 0 ∧
      t.mtT = 0 ∧ t.fault = 0 ∧ t.fcode = 0

/-! ### Faults (60_exceptions.md) -/

/-- 60_exceptions.md R187: while `FAULT = 1` every command, legal or not, and every idle step leaves the whole state
unchanged, the ports with it. -/
def Obligations.FaultedBlockIsFrozen : Prop :=
  ∀ s : State, s.fault = 1 →
    (∀ i : Instr, exec i s = .next s) ∧
    ∀ (p : PortSample) (rest : List PortSample), s.inputs = p :: rest → p.rst = 0 →
      ∃ t, step s = .next t ∧ t = { s with inputs := rest } ∧ t.ports = s.ports

/-- 60_exceptions.md R188: only a reset step clears `FAULT`, and it clears everything else too; a second fault cannot be
raised. -/
def Obligations.OnlyResetClearsAFault : Prop :=
  ∀ s t : State, s.fault = 1 → step s = .next t →
    (t.fault = 0 → s.sampled = .reset ∧ t = { State.reset with inputs := s.inputs.tail }) ∧
    (t.fault = 1 → t = { s with inputs := s.inputs.tail })

/-- 60_exceptions.md R185: a step that raises a fault writes `FAULT` and `FCODE` and changes nothing else; and it is one of
the three causes of R182, each with its code. -/
def Obligations.FaultEntryIsPrecise : Prop :=
  ∀ s t : State, s.fault = 0 → step s = .next t → t.fault = 1 →
    t = { s with inputs := s.inputs.tail, fault := 1, fcode := t.fcode } ∧
    ∃ w, s.sampled = .cmd w ∧
      ((t.fcode = 1 ∧ decode w = none) ∨ (t.fcode = 2 ∧ s.wp = 8 ∧ ∃ b, decode w = some (.fpush b)) ∨
       (t.fcode = 3 ∧ s.wp ≠ 8 ∧ decode w = some .fchk))

/-! ### CRC unit (40_crc.md) -/

/-- 40_crc.md R90 on natural numbers: XOR the byte in, then eight times halve and, when the dropped bit was 1, XOR
`0xA001`. -/
def Obligations.CrcStepIsTheBitProcedure : Prop :=
  ∀ (acc : Word) (b : Byte),
    (crcStep acc b).toNat =
      (fun a : Nat => if a % 2 = 1 then (a / 2) ^^^ 0xA001 else a / 2)^[8] (acc.toNat ^^^ b.toNat)

/-- The document's examples and the vectors computed from R90 and R91 (95_test_vectors.md V1, V2, T1 to T3, T20 to T23). -/
def Obligations.CrcKnownValues : Prop :=
  crc16 [] = 0xFFFF ∧ crc16 [0x03, 0x04, 0x02, 0x36, 0x00, 0xDB] = 0x0550 ∧
  crcStep 0xFFFF 0x03 = 0x41FF ∧ crcStep 0xFFFF 0x00 = 0x40BF ∧ crcStep 0x0000 0x01 = 0xC0C1 ∧
  crc16 [0x03, 0x00, 0x04] = 0x0380 ∧
  crc16 [0x31, 0x32, 0x33, 0x34, 0x35, 0x36, 0x37, 0x38, 0x39] = 0x4B37 ∧
  crc16 [0x03, 0x04, 0x02, 0x37, 0x00, 0xDB] = 0xC501 ∧
  crc16 [0x03, 0x04, 0x02, 0x36, 0x00, 0xDB, 0x50, 0x05] = 0x0000

/-- 40_crc.md R93 (a), (c), (e): append, dependence on the low byte alone, and the residue in both directions, which the
spec checked by evaluation and did not prove. -/
def Obligations.CrcResidueIsZeroExactlyForTheChecksum : Prop :=
  (∀ (xs : List Byte) (b : Byte), crc16 (xs ++ [b]) = crcStep (crc16 xs) b) ∧
  (∀ (acc : Word) (b : Byte), crcStep acc b = crcStep (acc ^^^ b.setWidth 16) 0x00) ∧
  ∀ (xs : List Byte) (p q : Byte), crc16 (xs ++ [p, q]) = 0x0000 ↔ q ++ p = crc16 xs

/-- 40_crc.md R93 (f): for every byte, `crc_step(., b)` is a bijection of the 16-bit values. -/
def Obligations.CrcStepIsABijection : Prop :=
  ∀ b : Byte, Function.Bijective fun acc : Word => crcStep acc b

/-- The accumulators a zero byte leaves as they are, by R90's procedure: `0x0000` (40_crc.md R93 (d)) and `0xC001`. The
second is what R95's remark on `b = 0x00` overlooks (log 13). -/
def Obligations.ZeroByteFixedPoints : Prop :=
  ∀ acc : Word, crcStep acc 0x00 = acc ↔ acc = 0x0000 ∨ acc = 0xC001

/-- 40_crc.md R94: CRCINIT's word and its effect; it leaves a faulted block as it is. -/
def Obligations.CrcinitSetsTheAccumulator : Prop :=
  encode .crcinit = 0x010000 ∧
  (∀ s : State, s.fault = 0 → exec .crcinit s = .next { s with acc := 0xFFFF }) ∧
  ∀ s : State, s.fault = 1 → exec .crcinit s = .next s

/-- 40_crc.md R95, but for its remark on zero bytes (log 13): CRCBYTE's word and its effect. -/
def Obligations.CrcbyteFoldsTheByteIn : Prop :=
  ∀ b : Byte, encode (.crcbyte b) = 0x020000 ||| b.setWidth 24 ∧
    (∀ s : State, s.fault = 0 → exec (.crcbyte b) s = .next { s with acc := crcStep s.acc b }) ∧
    ∀ s : State, s.fault = 1 → exec (.crcbyte b) s = .next s

/-- 40_crc.md R96: after CRCINIT, CRCBYTE of each byte in turn, with idle steps and any other commands but CRCINIT and a
faulting one between them, and no reset, `ACC` and `crc_out` are the checksum of the bytes; and after reset, before any
CRC command, they are `crc16([])`. That no command between faulted is said by `FAULT = 0` at the end (R188). -/
def Obligations.ChecksumSequenceLaw : Prop :=
  (∀ (s t : State) (ps : List PortSample), s.fault = 0 →
    (∀ p ∈ ps, p.rst = 0 ∧ p.command ≠ some .crcinit) →
    s.play (issue .crcinit :: ps) = .next t → t.fault = 0 →
    t.acc = crc16 (ps.filterMap PortSample.crcByte) ∧ t.ports.crcOut = t.acc) ∧
  ∀ (t : State) (ps : List PortSample),
    (∀ p ∈ ps, p.rst = 0 ∧ p.command ≠ some .crcinit ∧ p.crcByte = none) →
    State.reset.play ps = .next t → t.ports.crcOut = 0xFFFF ∧ crc16 [] = 0xFFFF

/-! ### Decode unit (41_decode_scale.md) -/

/-- 41_decode_scale.md R112 (a), (b): `combine(h, l) = 256 * h + l`, with inverse the two halves of the value. -/
def Obligations.CombineIsBigEndian : Prop :=
  (∀ h l : Byte, (combine h l).toNat = 256 * h.toNat + l.toNat) ∧
  (∀ h l : Byte, (combine h l).extractLsb' 8 8 = h ∧ (combine h l).extractLsb' 0 8 = l) ∧
  ∀ v : Word, combine (v.extractLsb' 8 8) (v.extractLsb' 0 8) = v

/-- 41_decode_scale.md R111, R112 (c): the scaled pair is exact, in range, and determines the value. -/
def Obligations.ScaledPairIsExact : Prop :=
  (∀ v : Word, 10 * (scale10 v).int.toNat + (scale10 v).tenths.toNat = v.toNat ∧ InRange (scale10 v) ∧
    (scale10 v).int.toNat = v.toNat / 10 ∧ (scale10 v).tenths.toNat = v.toNat % 10) ∧
  (∀ u v : Word, scale10 u = scale10 v → u = v) ∧
  scale10 0 = ⟨0, 0⟩ ∧ scale10 65535 = ⟨6553, 5⟩

/-- 41_decode_scale.md R118: a raw value with bit 15 set is not negative; `0x8065` scales to 3286.9. -/
def Obligations.RawValuesAreUnsigned : Prop :=
  scale10 0x8065 = ⟨3286, 9⟩ ∧
  ∀ v : Word, v.getLsbD 15 = true → 3276 ≤ (scale10 v).int.toNat

/-- 41_decode_scale.md R113: COMBINE's word and its effect. -/
def Obligations.CombineWritesRaw : Prop :=
  ∀ h l : Byte, encode (.combine h l) = 0x030000 ||| (h.setWidth 24 <<< 8) ||| l.setWidth 24 ∧
    ∀ s : State, s.fault = 0 → exec (.combine h l) s = .next { s with raw := combine h l }

/-- 41_decode_scale.md R114: SCALE's word and its effect. -/
def Obligations.ScaleWritesThePair : Prop :=
  ∀ v : Word, encode (.scale v) = 0x040000 ||| v.setWidth 24 ∧
    ∀ s : State, s.fault = 0 →
      exec (.scale v) s = .next { s with sq := (scale10 v).int, sr := (scale10 v).tenths }

/-- 41_decode_scale.md R115: DECODE's word and its effect, the same as COMBINE followed by SCALE of the combined value. -/
def Obligations.DecodeWritesRawAndThePair : Prop :=
  ∀ h l : Byte, encode (.decode h l) = 0x050000 ||| (h.setWidth 24 <<< 8) ||| l.setWidth 24 ∧
    ∀ s : State, s.fault = 0 →
      exec (.decode h l) s =
        .next { s with
          raw := combine h l, sq := (scale10 (combine h l)).int, sr := (scale10 (combine h l)).tenths } ∧
      exec (.decode h l) s = andThen (exec (.combine h l) s) (exec (.scale (combine h l)))

/-! ### Frame unit (42_frame_check.md) -/

/-- 42_frame_check.md R132: FCLR's word and its effect, at any `WP`; no cell of `FB` changes; it does not clear `FAULT`. -/
def Obligations.FclrClearsTheFrame : Prop :=
  encode .fclr = 0x100000 ∧
  (∀ s : State, s.fault = 0 →
    ∃ t, exec .fclr s = .next t ∧
      t = { s with wp := 0, res := 0, mhI := 0, mhT := 0, mtI := 0, mtT := 0 } ∧
      (∀ a, t.fb.read a = s.fb.read a) ∧ t.ports.measValid = 0) ∧
  ∀ s : State, s.fault = 1 → exec .fclr s = .next s

/-- 42_frame_check.md R133: FPUSH's word; at `WP = 8` it raises `FRAME_OVERFLOW` and changes nothing else; below 8 it
stores the byte at the old `WP` and advances `WP`. -/
def Obligations.FpushStoresAtTheWritePointer : Prop :=
  ∀ b : Byte, encode (.fpush b) = 0x110000 ||| b.setWidth 24 ∧
    (∀ s : State, s.fault = 0 → s.wp = 8 → exec (.fpush b) s = .next { s with fault := 1, fcode := 2 }) ∧
    ∀ s : State, s.fault = 0 → s.wp.toNat < 8 →
      ∃ t, exec (.fpush b) s = .next t ∧ t = { s with fb := t.fb, wp := s.wp + 1 } ∧
        t.wp.toNat = s.wp.toNat + 1 ∧ t.fb.read s.wp.toNat = some b ∧
        (∀ a, a ≠ s.wp.toNat → t.fb.read a = s.fb.read a) ∧ (Inv s → t.res = 0)

/-- 42_frame_check.md R133 at `WP` 9 to 15, which only a state before the first reset step holds
(93_implementation_defined.md U4): FPUSH runs, no cell has the index (00_scope.md R13, R14; the model's inference, log 5), and
`WP` advances; at 15 its new value is left free (log 16). -/
def Obligations.FpushPastTheBufferStoresNothing : Prop :=
  ∀ (b : Byte) (s : State), s.fault = 0 → 8 < s.wp.toNat →
    ∃ t, exec (.fpush b) s = .next t ∧ t = { s with wp := t.wp } ∧ (∀ a, t.fb.read a = s.fb.read a) ∧
      (s.wp.toNat < 15 → t.wp.toNat = s.wp.toNat + 1)

/-- 42_frame_check.md R135 with R131: FCHK's word; at `WP` other than 8 it raises `FRAME_INCOMPLETE` and changes nothing
else; at 8 it is `OK` with the decoded, scaled fields exactly when both header bytes are right and the checksum of offsets
0 to 5 equals `{FB[7], FB[6]}`, and `SENSOR_ERR` with a zero measurement otherwise. -/
def Obligations.FchkValidatesTheFrame : Prop :=
  encode .fchk = 0x120000 ∧
  (∀ s : State, s.fault = 0 → s.wp ≠ 8 → exec .fchk s = .next { s with fault := 1, fcode := 3 }) ∧
  ∀ (s : State) (f0 f1 f2 f3 f4 f5 f6 f7 : Byte), s.fault = 0 → s.wp = 8 →
    s.fb.read 0 = some f0 → s.fb.read 1 = some f1 → s.fb.read 2 = some f2 → s.fb.read 3 = some f3 →
    s.fb.read 4 = some f4 → s.fb.read 5 = some f5 → s.fb.read 6 = some f6 → s.fb.read 7 = some f7 →
    ((f0 = 0x03 ∧ f1 = 0x04 ∧ crc16 [f0, f1, f2, f3, f4, f5] = combine f7 f6) →
      exec .fchk s = .next { s with
        res := 1
        mhI := (scale10 (combine f2 f3)).int, mhT := (scale10 (combine f2 f3)).tenths
        mtI := (scale10 (combine f4 f5)).int, mtT := (scale10 (combine f4 f5)).tenths }) ∧
    (¬ (f0 = 0x03 ∧ f1 = 0x04 ∧ crc16 [f0, f1, f2, f3, f4, f5] = combine f7 f6) →
      exec .fchk s = .next { s with res := 2, mhI := 0, mhT := 0, mtI := 0, mtT := 0 })

/-- The frames of 95_test_vectors.md T31, T33, T34 (temperature bit 15 set), T35 (CRC bytes swapped), T37 (wrong header,
right CRC) and T39. The temperature of the first is 21.9 (90_conflicts.md C1). -/
def Obligations.KnownFramesValidate : Prop :=
  validate #v[0x03, 0x04, 0x02, 0x36, 0x00, 0xDB, 0x50, 0x05] = .ok ⟨56, 6⟩ ⟨21, 9⟩ ∧
  validate #v[0x03, 0x04, 0xFF, 0xFF, 0xFF, 0xFF, 0xF0, 0x7C] = .ok ⟨6553, 5⟩ ⟨6553, 5⟩ ∧
  validate #v[0x03, 0x04, 0x01, 0xF4, 0x80, 0x65, 0x10, 0x0D] = .ok ⟨50, 0⟩ ⟨3286, 9⟩ ∧
  validate #v[0x03, 0x04, 0x02, 0x36, 0x00, 0xDB, 0x05, 0x50] = .sensorErr ∧
  validate #v[0x02, 0x04, 0x02, 0x36, 0x00, 0xDB, 0x51, 0xD4] = .sensorErr ∧
  validate #v[0x00, 0x00, 0x00, 0x00, 0x00, 0x00, 0x00, 0x00] = .sensorErr

/-- 42_frame_check.md R136: a second FCHK with no command of the frame unit between (so that only `ACC`, `RAW`, `SQ`, `SR`
and the coming samples may differ) writes the same values again. -/
def Obligations.FchkMayBeRepeated : Prop :=
  ∀ s t u : State, exec .fchk s = .next t →
    u = { t with acc := u.acc, raw := u.raw, sq := u.sq, sr := u.sr, inputs := u.inputs } →
    exec .fchk u = .next u

/-- 42_frame_check.md R134: after FCLR and `k` FPUSH, `k` at most 8, with idle steps and CRC and decode commands between
them and no reset, `WP = k`, the cells below `k` hold the bytes in order, and there is no result and no fault. -/
def Obligations.LoadingLaw : Prop :=
  ∀ (s : State) (ps : List PortSample), s.fault = 0 →
    (∀ p ∈ ps, p.input = .idle ∨ ∃ i, p.input ≠ .reset ∧ p.command = some i ∧
      (isCrcCommand i = true ∨ isDecodeCommand i = true ∨ ∃ b, i = .fpush b)) →
    (ps.filterMap PortSample.frameByte).length ≤ 8 →
    ∃ t, s.play (issue .fclr :: ps) = .next t ∧
      t.wp.toNat = (ps.filterMap PortSample.frameByte).length ∧
      (∀ i, i < (ps.filterMap PortSample.frameByte).length →
        t.fb.read i = (ps.filterMap PortSample.frameByte)[i]?) ∧
      t.res = 0 ∧ t.mhI = 0 ∧ t.mhT = 0 ∧ t.mtI = 0 ∧ t.mtT = 0 ∧ t.fault = 0

/-- 42_frame_check.md R138: of the `2^64` frames exactly `2^32` pass; offsets 0 and 1 are fixed, 2 to 5 free, 6 and 7
determined by the first six. -/
def Obligations.AcceptableFramesAreCounted : Prop :=
  Nat.card { f : Frame // validate f ≠ .sensorErr } = 2 ^ 32 ∧
  ∀ f : Frame, validate f ≠ .sensorErr ↔
    f[0] = 0x03 ∧ f[1] = 0x04 ∧
    f[6] = (crc16 [f[0], f[1], f[2], f[3], f[4], f[5]]).extractLsb' 0 8 ∧
    f[7] = (crc16 [f[0], f[1], f[2], f[3], f[4], f[5]]).extractLsb' 8 8

/-! ### Independence and frames (10_state.md R32, 20_memory.md R51, R52) -/

/-- 10_state.md R32: CRC commands write `ACC` only; decode commands `RAW`, `SQ`, `SR` only; frame commands `FB`, `WP`, `RES`
and the measurement registers only; a fault writes `FAULT` and `FCODE` only. This is the frame of CRCINIT, CRCBYTE,
COMBINE, SCALE and DECODE, memory with it. -/
def Obligations.UnitsAreIndependent : Prop :=
  ∀ (i : Instr) (s t : State), exec i s = .next t →
    (isCrcCommand i = true → t = { s with acc := t.acc } ∧ ∀ a, t.fb.read a = s.fb.read a) ∧
    (isDecodeCommand i = true →
      t = { s with raw := t.raw, sq := t.sq, sr := t.sr } ∧ ∀ a, t.fb.read a = s.fb.read a) ∧
    (isFrameCommand i = true → t.fault = s.fault → t = { s with
      fb := t.fb, wp := t.wp, res := t.res, mhI := t.mhI, mhT := t.mhT, mtI := t.mtI, mtT := t.mtT }) ∧
    (t.fault ≠ s.fault → t = { s with fault := t.fault, fcode := t.fcode })

/-- What the commands of the frame unit leave unchanged, register by register and byte by byte of memory: FCLR and FCHK
store nothing, FPUSH stores one byte, at the old `WP` (42_frame_check.md R132, R133, R135; 20_memory.md R52). -/
def Obligations.FrameCommandsFrame : Prop :=
  (∀ s t : State, exec .fclr s = .next t →
    t.acc = s.acc ∧ t.raw = s.raw ∧ t.sq = s.sq ∧ t.sr = s.sr ∧ t.fault = s.fault ∧ t.fcode = s.fcode ∧
    t.inputs = s.inputs ∧ ∀ a, t.fb.read a = s.fb.read a) ∧
  (∀ (b : Byte) (s t : State), exec (.fpush b) s = .next t →
    t.acc = s.acc ∧ t.raw = s.raw ∧ t.sq = s.sq ∧ t.sr = s.sr ∧ t.res = s.res ∧
    t.mhI = s.mhI ∧ t.mhT = s.mhT ∧ t.mtI = s.mtI ∧ t.mtT = s.mtT ∧
    (s.wp ≠ 8 → t.fault = s.fault ∧ t.fcode = s.fcode) ∧ (s.wp = 8 → t.wp = s.wp) ∧ t.inputs = s.inputs ∧
    (∀ a, a ≠ s.wp.toNat → t.fb.read a = s.fb.read a) ∧ (s.wp = 8 → ∀ a, t.fb.read a = s.fb.read a)) ∧
  ∀ s t : State, exec .fchk s = .next t →
    t.acc = s.acc ∧ t.raw = s.raw ∧ t.sq = s.sq ∧ t.sr = s.sr ∧ t.wp = s.wp ∧
    (s.wp = 8 → t.fault = s.fault ∧ t.fcode = s.fcode) ∧
    (s.wp ≠ 8 → t.res = s.res ∧ t.mhI = s.mhI ∧ t.mhT = s.mhT ∧ t.mtI = s.mtI ∧ t.mtT = s.mtT) ∧
    t.inputs = s.inputs ∧ ∀ a, t.fb.read a = s.fb.read a

/-- 20_memory.md R51: a step that is no reset changes a cell only if it presents FPUSH, and then only the cell `FB[WP]`. -/
def Obligations.OnlyFpushWritesACell : Prop :=
  ∀ (s t : State) (a : Nat), step s = .next t → s.sampled ≠ .reset → t.fb.read a ≠ s.fb.read a →
    a = s.wp.toNat ∧ ∃ w b, s.sampled = .cmd w ∧ decode w = some (.fpush b)

/-! ### Invariants (10_state.md R31) and whole-machine statements -/

/-- The invariant of 10_state.md R31 holds in `reset_state`. -/
def Obligations.InvariantHoldsAtReset : Prop := Inv State.reset

/-- Every step keeps the invariant of 10_state.md R31 (and the canonical form of the frame buffer). -/
def Obligations.EveryStepKeepsTheInvariant : Prop :=
  ∀ s t : State, Inv s → step s = .next t → Inv t

/-- 10_state.md R31: from reset, every finite sequence of inputs leads to a state, and that state has (a) to (g). -/
def Obligations.InvariantOfEveryInputSequence : Prop :=
  ∀ ps : List PortSample, ∃ t, State.reset.play ps = .next t ∧
    t.wp.toNat ≤ 8 ∧
    (t.res = 0 ∨ t.res = 1 ∨ t.res = 2) ∧
    (t.sr.toNat ≤ 9 ∧ t.sq.toNat ≤ 6553 ∧ t.mhT.toNat ≤ 9 ∧ t.mtT.toNat ≤ 9 ∧ t.mhI.toNat ≤ 6553 ∧
      t.mtI.toNat ≤ 6553) ∧
    (t.res ≠ 1 → t.mhI = 0 ∧ t.mhT = 0 ∧ t.mtI = 0 ∧ t.mtT = 0) ∧
    (t.res = 1 → t.wp = 8 ∧ ∃ f2 f3 f4 f5 f6 f7 : Byte,
      t.fb.read 0 = some 0x03 ∧ t.fb.read 1 = some 0x04 ∧ t.fb.read 2 = some f2 ∧ t.fb.read 3 = some f3 ∧
      t.fb.read 4 = some f4 ∧ t.fb.read 5 = some f5 ∧ t.fb.read 6 = some f6 ∧ t.fb.read 7 = some f7 ∧
      crc16 [0x03, 0x04, f2, f3, f4, f5] = f7 ++ f6 ∧
      ⟨t.mhI, t.mhT⟩ = scale10 (combine f2 f3) ∧ ⟨t.mtI, t.mtT⟩ = scale10 (combine f4 f5)) ∧
    (t.fault = 0 ↔ t.fcode = 0) ∧
    (t.res ≠ 0 → t.wp = 8)

/-- 42_frame_check.md R137: at no step do the measurement ports show a value decoded from a frame that has not passed
both checks. -/
def Obligations.NoPartialExposure : Prop :=
  ∀ s t : State, Inv s → step s = .next t →
    (t.ports.measValid = 0 →
      t.ports.humInt = 0 ∧ t.ports.humTenth = 0 ∧ t.ports.tmpInt = 0 ∧ t.ports.tmpTenth = 0) ∧
    (t.ports.measValid = 1 →
      validate t.fb.frame = .ok ⟨t.ports.humInt, t.ports.humTenth⟩ ⟨t.ports.tmpInt, t.ports.tmpTenth⟩)

/-- 20_memory.md R53: states that differ only in cells at `WP` and above show the same ports, and every step takes them to
states that again differ only so. -/
def Obligations.StaleBytesAreUnobservable : Prop :=
  ∀ s t : State, SameVisible s t →
    t.ports = s.ports ∧
    ∀ s' : State, step s = .next s' → ∃ t', step t = .next t' ∧ SameVisible s' t'

/-- 10_state.md R30: the fields of `STATUS`, and its reset value. -/
def Obligations.StatusWordFields : Prop :=
  (∀ s : State, s.ports.status.extractLsb' 0 4 = s.wp ∧ s.ports.status.extractLsb' 4 2 = s.res ∧
    s.ports.status.extractLsb' 6 2 = s.fcode ∧ s.ports.status.extractLsb' 8 1 = s.fault ∧
    s.ports.status.extractLsb' 9 7 = (0 : BitVec 7)) ∧
  State.reset.ports.status = 0x0000

/-- 10_state.md R41: every output port but `status` (R30) as a function of the state. -/
def Obligations.PortsShowTheRegisters : Prop :=
  ∀ s : State, s.ports.crcOut = s.acc ∧ s.ports.rawOut = s.raw ∧ s.ports.scInt = s.sq ∧ s.ports.scTenth = s.sr ∧
    s.ports.humInt = s.mhI ∧ s.ports.humTenth = s.mhT ∧ s.ports.tmpInt = s.mtI ∧ s.ports.tmpTenth = s.mtT ∧
    (s.res = 1 → s.ports.measValid = 1) ∧ (s.res ≠ 1 → s.ports.measValid = 0) ∧
    (s.res = 2 → s.ports.sensorErr = 1) ∧ (s.res ≠ 2 → s.ports.sensorErr = 0) ∧ s.ports.fault = s.fault

/-! ### The host (30_encoding.md R83, 43_host_sequencer.md) -/

/-- 30_encoding.md R83: the end states of the three pseudo-commands, from any state with `FAULT = 0`, when they are issued at
successive edges. -/
def Obligations.PseudoCommandsEndStates : Prop :=
  ∀ s : State, s.fault = 0 →
    (∀ bs : List Byte, s.play ((Pseudo.crc16 bs).expand.map issue) = .next { s with acc := crc16 bs }) ∧
    (∀ f : Frame, ∃ t, s.play ((Pseudo.frame f.toList).expand.map issue) = .next t ∧
      t.wp = 8 ∧ (∀ i : Fin 8, t.fb.read i.val = some f[i]) ∧ t.res = 0) ∧
    ∀ f : Frame, ∃ t, s.play ((Pseudo.validate f.toList).expand.map issue) = .next t ∧
      t.wp = 8 ∧ (∀ i : Fin 8, t.fb.read i.val = some f[i]) ∧ t.fault = 0 ∧
      (∀ hum tmp, validate f = .ok hum tmp →
        t.res = 1 ∧ t.mhI = hum.int ∧ t.mhT = hum.tenths ∧ t.mtI = tmp.int ∧ t.mtT = tmp.tenths) ∧
      (validate f = .sensorErr → t.res = 2 ∧ t.mhI = 0 ∧ t.mhT = 0 ∧ t.mtI = 0 ∧ t.mtT = 0)

/-- 43_host_sequencer.md R160, R161: a read whose bus transactions succeed, on a block with `FAULT = 0`, returns what
`validate` says of the frame, and no fault occurs. -/
def Obligations.HostReadReturnsTheValidatedFrame : Prop :=
  ∀ (d : Delays) (bus : BusAnswers) (s : State) (f : Frame),
    s.fault = 0 → bus.commandOk = true → bus.response = some f →
    (hostRead d bus s).block.fault = 0 ∧
    (∀ hum tmp, validate f = .ok hum tmp → (hostRead d bus s).result = .ok ⟨hum, tmp⟩) ∧
    (validate f = .sensorErr → (hostRead d bus s).result = .error .sensorFailure)

/-- 43_host_sequencer.md R154, R156, R158: the wake write's failure is swallowed, a failed command write or response read
aborts the read with its own kind, and the block is given nothing. -/
def Obligations.HostReadAborts : Prop :=
  ∀ (d : Delays) (bus : BusAnswers) (s : State),
    (∀ b, hostRead d { bus with wakeOk := b } s = hostRead d bus s) ∧
    (bus.commandOk = false → hostRead d bus s =
      ⟨[.write 0x5C [0x00], .delay d.wake, .write 0x5C [0x03, 0x00, 0x04]], .error .writeFailure, s⟩) ∧
    (bus.commandOk = true → bus.response = none → hostRead d bus s =
      ⟨[.write 0x5C [0x00], .delay d.wake, .write 0x5C [0x03, 0x00, 0x04], .delay d.result, .read 0x5C 8],
        .error .readFailure, s⟩)

/-- 43_host_sequencer.md R165: a successful read blocks for at least 2300 microseconds, delays in their windows. -/
def Obligations.SuccessfulReadBlocksLongEnough : Prop :=
  ∀ (d : Delays) (bus : BusAnswers) (s : State) (m : Measurement),
    d.allowed = true → (hostRead d bus s).result = .ok m → 2300 ≤ delayTotal (hostRead d bus s).actions
end

