-- ==== Sys2Proof/Laws/Decode.lean ====
section
/-! SUPPORT. A command word as its three bytes, the encoder in that form, and that the decoder rejects exactly the words
the named reasons reject (30_encoding.md R70, R80, R81). -/

namespace Sys2Proof

/-- The word with bytes `OP`, `A`, `B` (30_encoding.md R70). -/
def wordOf (op a b : Byte) : CmdWord := op ++ a ++ b

/-- Bit `k` of a word, by the byte it lies in. -/
theorem getLsbD_wordOf (op a b : Byte) (k : Nat) :
    (wordOf op a b).getLsbD k =
      if k < 8 then b.getLsbD k else if k < 16 then a.getLsbD (k - 8) else op.getLsbD (k - 16) := by
  show (op ++ a ++ b : BitVec (8 + 8 + 8)).getLsbD k = _
  rw [BitVec.getLsbD_append, BitVec.getLsbD_append]
  by_cases h1 : k < 8
  · simp [h1]
  · by_cases h2 : k < 16
    · simp [h1, h2, show k - 8 < 8 by omega]
    · simp [h1, h2, show ¬ k - 8 < 8 by omega, show k - 8 - 8 = k - 16 by omega]

@[simp] theorem opField_wordOf (op a b : Byte) : opField (wordOf op a b) = op := by
  apply BitVec.eq_of_getLsbD_eq
  intro k hk
  simp only [opField, BitVec.getLsbD_extractLsb', getLsbD_wordOf]
  rw [if_neg (by omega), if_neg (by omega)]
  simp [hk]

@[simp] theorem aField_wordOf (op a b : Byte) : aField (wordOf op a b) = a := by
  apply BitVec.eq_of_getLsbD_eq
  intro k hk
  simp only [aField, BitVec.getLsbD_extractLsb', getLsbD_wordOf]
  rw [if_neg (by omega), if_pos (by omega)]
  simp [hk]

@[simp] theorem bField_wordOf (op a b : Byte) : bField (wordOf op a b) = b := by
  apply BitVec.eq_of_getLsbD_eq
  intro k hk
  simp only [bField, BitVec.getLsbD_extractLsb', getLsbD_wordOf]
  rw [if_pos (by omega)]
  simp [hk]

/-- A word is its three bytes. -/
theorem wordOf_fields (w : CmdWord) : wordOf (opField w) (aField w) (bField w) = w := by
  apply BitVec.eq_of_getLsbD_eq
  intro k hk
  simp only [opField, aField, bField, BitVec.getLsbD_extractLsb', getLsbD_wordOf]
  by_cases h1 : k < 8
  · simp [h1]
  · by_cases h2 : k < 16
    · simp [h1, h2, show k - 8 < 8 by omega, show 8 + (k - 8) = k by omega]
    · simp [h1, h2, show k - 16 < 8 by omega, show 16 + (k - 16) = k by omega]

/-- Two operand bytes placed as the encoder places them. -/
theorem or_pair (op h l : Byte) :
    wordOf op 0 0 ||| (h.setWidth 24 <<< 8) ||| l.setWidth 24 = wordOf op h l := by
  apply BitVec.eq_of_getLsbD_eq
  intro k hk
  simp only [BitVec.getLsbD_or, BitVec.getLsbD_shiftLeft, BitVec.getLsbD_setWidth, getLsbD_wordOf]
  by_cases h1 : k < 8
  · simp [h1, hk]
  · by_cases h2 : k < 16
    · simp [h1, h2, hk, show k - 8 < 24 by omega, BitVec.getLsbD_of_ge l k (by omega)]
    · simp [h1, h2, hk, show k - 8 < 24 by omega, BitVec.getLsbD_of_ge l k (by omega),
        BitVec.getLsbD_of_ge h (k - 8) (by omega)]

/-- One operand byte placed as the encoder places it. -/
theorem or_byte (op b : Byte) : wordOf op 0 0 ||| b.setWidth 24 = wordOf op 0 b := by
  simpa using or_pair op 0 b

/-- A 16-bit operand placed as the encoder places it. -/
theorem or_word (op : Byte) (v : Word) :
    wordOf op 0 0 ||| v.setWidth 24 = wordOf op (v.extractLsb' 8 8) (v.extractLsb' 0 8) := by
  apply BitVec.eq_of_getLsbD_eq
  intro k hk
  simp only [BitVec.getLsbD_or, BitVec.getLsbD_setWidth, getLsbD_wordOf, BitVec.getLsbD_extractLsb']
  by_cases h1 : k < 8
  · simp [h1, hk]
  · by_cases h2 : k < 16
    · simp [h1, h2, hk, show k - 8 < 8 by omega, show 8 + (k - 8) = k by omega]
    · simp [h1, h2, hk, BitVec.getLsbD_of_ge v k (by omega)]

/-! ### The encoder, byte by byte -/

theorem encode_crcinit : encode .crcinit = wordOf 0x01 0 0 := rfl
theorem encode_crcbyte (b : Byte) : encode (.crcbyte b) = wordOf 0x02 0 b := or_byte 0x02 b
theorem encode_combine (h l : Byte) : encode (.combine h l) = wordOf 0x03 h l := or_pair 0x03 h l
theorem encode_scale (v : Word) : encode (.scale v) = wordOf 0x04 (v.extractLsb' 8 8) (v.extractLsb' 0 8) := or_word 0x04 v
theorem encode_decode (h l : Byte) : encode (.decode h l) = wordOf 0x05 h l := or_pair 0x05 h l
theorem encode_fclr : encode .fclr = wordOf 0x10 0 0 := rfl
theorem encode_fpush (b : Byte) : encode (.fpush b) = wordOf 0x11 0 b := or_byte 0x11 b
theorem encode_fchk : encode .fchk = wordOf 0x12 0 0 := rfl

/-- The operand of format W is its own two bytes (30_encoding.md R72). -/
theorem append_halves (v : Word) : v.extractLsb' 8 8 ++ v.extractLsb' 0 8 = v := by
  apply BitVec.eq_of_getLsbD_eq
  intro k hk
  rw [BitVec.getLsbD_append]
  by_cases h1 : k < 8
  · simp [h1]
  · simp [h1, show k - 8 < 8 by omega, show 8 + (k - 8) = k by omega]

/-! ### Rejection by name -/

/-- The decoder refuses a word exactly when the word has a reason to be illegal. -/
theorem decode_none_iff_illegal (w : CmdWord) : decode w = none ↔ illegalReason w ≠ none := by
  unfold decode illegalReason formatOf
  split_ifs <;> simp_all [Format.admits] <;> tauto

end Sys2Proof
end

