-- ==== Sys2Proof/Laws/Memory.lean ====
section
/-! SUPPORT. The frame buffer: a read after a write, the canonical form, and that it makes equal contents equal data. -/

namespace Sys2Proof.Machine

@[simp] theorem Memory.lookup_nil (a : Nat) : Memory.lookup [] a = Config.cellFill := rfl

theorem Memory.lookup_cons (k : Nat) (v : Byte) (m : Memory) (a : Nat) :
    Memory.lookup ((k, v) :: m) a = if k = a then v else Memory.lookup m a := rfl

/-- What a canonical buffer lists at or above `lo` says nothing of an index below. -/
theorem Memory.lookup_below {m : Memory} {lo a : Nat} (h : Memory.wfFrom lo m = true) (ha : a < lo) :
    Memory.lookup m a = Config.cellFill := by
  induction m generalizing lo with
  | nil => rfl
  | cons c m ih =>
    obtain ⟨k, v⟩ := c
    simp only [Memory.wfFrom, Bool.and_eq_true, decide_eq_true_eq] at h
    rw [Memory.lookup_cons, if_neg (by omega)]
    exact ih h.2 (by omega)

theorem Memory.wfFrom_mono {m : Memory} {lo lo' : Nat} (h : Memory.wfFrom lo m = true) (hl : lo' ≤ lo) :
    Memory.wfFrom lo' m = true := by
  cases m with
  | nil => rfl
  | cons c m =>
    obtain ⟨k, v⟩ := c
    simp only [Memory.wfFrom, Bool.and_eq_true, decide_eq_true_eq] at h ⊢
    exact ⟨⟨⟨by omega, h.1.1.2⟩, h.1.2⟩, h.2⟩

theorem Memory.lookup_erase_same (m : Memory) (i : Nat) : (m.erase i).lookup i = Config.cellFill := by
  induction m with
  | nil => rfl
  | cons c m ih =>
    obtain ⟨k, v⟩ := c
    simp only [Memory.erase]
    split_ifs with h
    · exact ih
    · rw [Memory.lookup_cons, if_neg h, ih]

theorem Memory.lookup_erase_other (m : Memory) {i a : Nat} (h : a ≠ i) : (m.erase i).lookup a = m.lookup a := by
  induction m with
  | nil => rfl
  | cons c m ih =>
    obtain ⟨k, v⟩ := c
    simp only [Memory.erase]
    split_ifs with hk
    · rw [ih, Memory.lookup_cons, if_neg (by omega)]
    · rw [Memory.lookup_cons, Memory.lookup_cons, ih]

theorem Memory.lookup_insert_other (m : Memory) {i a : Nat} (b : Byte) (h : a ≠ i) :
    (m.insert i b).lookup a = m.lookup a := by
  induction m with
  | nil => rw [Memory.insert, Memory.lookup_cons, if_neg (by omega)]
  | cons c m ih =>
    obtain ⟨k, v⟩ := c
    simp only [Memory.insert]
    split_ifs
    · rw [Memory.lookup_cons, if_neg (by omega)]
    · rw [Memory.lookup_cons, Memory.lookup_cons, ih]

theorem Memory.lookup_insert_erase (m : Memory) (i : Nat) (b : Byte) : ((m.erase i).insert i b).lookup i = b := by
  induction m with
  | nil => simp [Memory.erase, Memory.insert, Memory.lookup_cons]
  | cons c m ih =>
    obtain ⟨k, v⟩ := c
    simp only [Memory.erase]
    split_ifs with hk
    · exact ih
    · simp only [Memory.insert]
      split_ifs
      · simp [Memory.lookup_cons]
      · rw [Memory.lookup_cons, if_neg hk, ih]

/-- A write to any index keeps every other index's byte. -/
theorem Memory.lookup_put_other (m : Memory) {i a : Nat} (b : Byte) (h : a ≠ i) :
    (m.put i b).lookup a = m.lookup a := by
  unfold Memory.put
  split_ifs
  · exact Memory.lookup_erase_other m h
  · rw [Memory.lookup_insert_other _ b h, Memory.lookup_erase_other m h]

/-- A read after a write to the same index gives the byte written. -/
theorem Memory.lookup_put_same (m : Memory) (i : Nat) (b : Byte) : (m.put i b).lookup i = b := by
  unfold Memory.put
  split_ifs with h
  · rw [Memory.lookup_erase_same, h]
  · exact Memory.lookup_insert_erase m i b

theorem Memory.wfFrom_erase {m : Memory} {lo : Nat} (i : Nat) (hm : Memory.wfFrom lo m = true) :
    Memory.wfFrom lo (m.erase i) = true := by
  induction m generalizing lo with
  | nil => rfl
  | cons c m ih =>
    obtain ⟨k, v⟩ := c
    simp only [Memory.wfFrom, Bool.and_eq_true, decide_eq_true_eq] at hm
    simp only [Memory.erase]
    split_ifs
    · exact Memory.wfFrom_mono (ih hm.2) (by omega)
    · simp only [Memory.wfFrom, Bool.and_eq_true, decide_eq_true_eq]
      exact ⟨hm.1, ih hm.2⟩

theorem Memory.wfFrom_insert_erase {m : Memory} {lo i : Nat} {b : Byte} (hb : b ≠ Config.cellFill)
    (hm : Memory.wfFrom lo m = true) (hlo : lo ≤ i) (hi : i < Config.frameLen) :
    Memory.wfFrom lo ((m.erase i).insert i b) = true := by
  induction m generalizing lo with
  | nil => simp_all [Memory.erase, Memory.insert, Memory.wfFrom]
  | cons c m ih =>
    obtain ⟨k, v⟩ := c
    simp only [Memory.wfFrom, Bool.and_eq_true, decide_eq_true_eq] at hm
    simp only [Memory.erase]
    split_ifs with hk
    · exact ih (Memory.wfFrom_mono hm.2 (by omega)) hlo
    · simp only [Memory.insert]
      split_ifs
      · simp only [Memory.wfFrom, Bool.and_eq_true, decide_eq_true_eq]
        exact ⟨⟨⟨hlo, hi⟩, by simpa using hb⟩, ⟨⟨by omega, hm.1.1.2⟩, hm.1.2⟩, Memory.wfFrom_erase i hm.2⟩
      · simp only [Memory.wfFrom, Bool.and_eq_true, decide_eq_true_eq]
        exact ⟨hm.1, ih hm.2 (by omega)⟩

/-- A write to a cell keeps the canonical form. -/
theorem Memory.wfFrom_put {m : Memory} {lo i : Nat} (b : Byte) (hm : Memory.wfFrom lo m = true) (hlo : lo ≤ i)
    (hi : i < Config.frameLen) : Memory.wfFrom lo (m.put i b) = true := by
  unfold Memory.put
  split_ifs with h
  · exact Memory.wfFrom_erase i hm
  · exact Memory.wfFrom_insert_erase h hm hlo hi

theorem Memory.wf_put {m : Memory} {i : Nat} (b : Byte) (hm : m.wf = true) (hi : i < Config.frameLen) :
    (m.put i b).wf = true := Memory.wfFrom_put b hm (Nat.zero_le _) hi

theorem Memory.wf_reset : State.reset.fb.wf = true := rfl

/-- The canonical form: two canonical buffers with the same bytes are the same data. -/
theorem Memory.ext_wf {m n : Memory} {lo : Nat} (hm : Memory.wfFrom lo m = true) (hn : Memory.wfFrom lo n = true)
    (h : ∀ a, m.lookup a = n.lookup a) : m = n := by
  induction m generalizing n lo with
  | nil =>
    cases n with
    | nil => rfl
    | cons d n =>
      obtain ⟨l, w⟩ := d
      simp only [Memory.wfFrom, Bool.and_eq_true, decide_eq_true_eq] at hn
      have := h l
      simp [Memory.lookup_cons] at this
      simp [← this] at hn
  | cons c m ih =>
    obtain ⟨k, v⟩ := c
    cases n with
    | nil =>
      simp only [Memory.wfFrom, Bool.and_eq_true, decide_eq_true_eq] at hm
      have := h k
      simp [Memory.lookup_cons] at this
      simp [this] at hm
    | cons d n =>
      obtain ⟨l, w⟩ := d
      simp only [Memory.wfFrom, Bool.and_eq_true, decide_eq_true_eq] at hm hn
      have hk := h k
      have hl := h l
      have kl : k = l := by
        rcases Nat.lt_trichotomy k l with hkl | hkl | hkl
        · rw [Memory.lookup_cons, if_pos rfl, Memory.lookup_cons, if_neg (by omega),
            Memory.lookup_below hn.2 (by omega)] at hk
          simp [hk] at hm
        · exact hkl
        · rw [Memory.lookup_cons, if_neg (by omega), Memory.lookup_cons, if_pos rfl,
            Memory.lookup_below hm.2 (by omega)] at hl
          simp [← hl] at hn
      subst kl
      have vw : v = w := by simpa [Memory.lookup_cons] using hk
      subst vw
      have : m = n := ih hm.2 hn.2 fun a => by
        by_cases hka : k = a
        · rw [Memory.lookup_below hm.2 (by omega), Memory.lookup_below hn.2 (by omega)]
        · simpa [Memory.lookup_cons, hka] using h a
      rw [this]

@[simp] theorem Memory.read_cell (m : Memory) {i : Nat} (h : i < Config.frameLen) : m.read i = some (m.lookup i) :=
  if_pos h

@[simp] theorem Memory.read_outside (m : Memory) {i : Nat} (h : ¬ i < Config.frameLen) : m.read i = none :=
  if_neg h

theorem Memory.read_put_same (m : Memory) {i : Nat} (b : Byte) (h : i < Config.frameLen) :
    (m.put i b).read i = some b := by
  rw [Memory.read_cell _ h, Memory.lookup_put_same]

theorem Memory.read_put_other (m : Memory) {i a : Nat} (b : Byte) (h : a ≠ i) : (m.put i b).read a = m.read a := by
  simp only [Memory.read, Memory.lookup_put_other m b h]

end Sys2Proof.Machine
end

