-- ==== Sys2Proof/Laws/State.lean ====
section
/-! SUPPORT. What each update of the state does to each field: one lemma per field per update, so that no proof unfolds a
record update. -/

namespace Sys2Proof.Machine

variable (s : State)

/-! ### `setAcc` -/

@[simp] theorem State.setAcc_acc (v : Word) : (s.setAcc v).acc = v := rfl
@[simp] theorem State.setAcc_raw (v : Word) : (s.setAcc v).raw = s.raw := rfl
@[simp] theorem State.setAcc_sq (v : Word) : (s.setAcc v).sq = s.sq := rfl
@[simp] theorem State.setAcc_sr (v : Word) : (s.setAcc v).sr = s.sr := rfl
@[simp] theorem State.setAcc_fb (v : Word) : (s.setAcc v).fb = s.fb := rfl
@[simp] theorem State.setAcc_wp (v : Word) : (s.setAcc v).wp = s.wp := rfl
@[simp] theorem State.setAcc_res (v : Word) : (s.setAcc v).res = s.res := rfl
@[simp] theorem State.setAcc_mhI (v : Word) : (s.setAcc v).mhI = s.mhI := rfl
@[simp] theorem State.setAcc_mhT (v : Word) : (s.setAcc v).mhT = s.mhT := rfl
@[simp] theorem State.setAcc_mtI (v : Word) : (s.setAcc v).mtI = s.mtI := rfl
@[simp] theorem State.setAcc_mtT (v : Word) : (s.setAcc v).mtT = s.mtT := rfl
@[simp] theorem State.setAcc_fault (v : Word) : (s.setAcc v).fault = s.fault := rfl
@[simp] theorem State.setAcc_fcode (v : Word) : (s.setAcc v).fcode = s.fcode := rfl
@[simp] theorem State.setAcc_inputs (v : Word) : (s.setAcc v).inputs = s.inputs := rfl

/-! ### `setRaw` -/

@[simp] theorem State.setRaw_acc (v : Word) : (s.setRaw v).acc = s.acc := rfl
@[simp] theorem State.setRaw_raw (v : Word) : (s.setRaw v).raw = v := rfl
@[simp] theorem State.setRaw_sq (v : Word) : (s.setRaw v).sq = s.sq := rfl
@[simp] theorem State.setRaw_sr (v : Word) : (s.setRaw v).sr = s.sr := rfl
@[simp] theorem State.setRaw_fb (v : Word) : (s.setRaw v).fb = s.fb := rfl
@[simp] theorem State.setRaw_wp (v : Word) : (s.setRaw v).wp = s.wp := rfl
@[simp] theorem State.setRaw_res (v : Word) : (s.setRaw v).res = s.res := rfl
@[simp] theorem State.setRaw_mhI (v : Word) : (s.setRaw v).mhI = s.mhI := rfl
@[simp] theorem State.setRaw_mhT (v : Word) : (s.setRaw v).mhT = s.mhT := rfl
@[simp] theorem State.setRaw_mtI (v : Word) : (s.setRaw v).mtI = s.mtI := rfl
@[simp] theorem State.setRaw_mtT (v : Word) : (s.setRaw v).mtT = s.mtT := rfl
@[simp] theorem State.setRaw_fault (v : Word) : (s.setRaw v).fault = s.fault := rfl
@[simp] theorem State.setRaw_fcode (v : Word) : (s.setRaw v).fcode = s.fcode := rfl
@[simp] theorem State.setRaw_inputs (v : Word) : (s.setRaw v).inputs = s.inputs := rfl

/-! ### `setScaled` -/

@[simp] theorem State.setScaled_acc (p : Scaled) : (s.setScaled p).acc = s.acc := rfl
@[simp] theorem State.setScaled_raw (p : Scaled) : (s.setScaled p).raw = s.raw := rfl
@[simp] theorem State.setScaled_sq (p : Scaled) : (s.setScaled p).sq = p.int := rfl
@[simp] theorem State.setScaled_sr (p : Scaled) : (s.setScaled p).sr = p.tenths := rfl
@[simp] theorem State.setScaled_fb (p : Scaled) : (s.setScaled p).fb = s.fb := rfl
@[simp] theorem State.setScaled_wp (p : Scaled) : (s.setScaled p).wp = s.wp := rfl
@[simp] theorem State.setScaled_res (p : Scaled) : (s.setScaled p).res = s.res := rfl
@[simp] theorem State.setScaled_mhI (p : Scaled) : (s.setScaled p).mhI = s.mhI := rfl
@[simp] theorem State.setScaled_mhT (p : Scaled) : (s.setScaled p).mhT = s.mhT := rfl
@[simp] theorem State.setScaled_mtI (p : Scaled) : (s.setScaled p).mtI = s.mtI := rfl
@[simp] theorem State.setScaled_mtT (p : Scaled) : (s.setScaled p).mtT = s.mtT := rfl
@[simp] theorem State.setScaled_fault (p : Scaled) : (s.setScaled p).fault = s.fault := rfl
@[simp] theorem State.setScaled_fcode (p : Scaled) : (s.setScaled p).fcode = s.fcode := rfl
@[simp] theorem State.setScaled_inputs (p : Scaled) : (s.setScaled p).inputs = s.inputs := rfl

/-! ### `setWp` -/

@[simp] theorem State.setWp_acc (v : BitVec 4) : (s.setWp v).acc = s.acc := rfl
@[simp] theorem State.setWp_raw (v : BitVec 4) : (s.setWp v).raw = s.raw := rfl
@[simp] theorem State.setWp_sq (v : BitVec 4) : (s.setWp v).sq = s.sq := rfl
@[simp] theorem State.setWp_sr (v : BitVec 4) : (s.setWp v).sr = s.sr := rfl
@[simp] theorem State.setWp_fb (v : BitVec 4) : (s.setWp v).fb = s.fb := rfl
@[simp] theorem State.setWp_wp (v : BitVec 4) : (s.setWp v).wp = v := rfl
@[simp] theorem State.setWp_res (v : BitVec 4) : (s.setWp v).res = s.res := rfl
@[simp] theorem State.setWp_mhI (v : BitVec 4) : (s.setWp v).mhI = s.mhI := rfl
@[simp] theorem State.setWp_mhT (v : BitVec 4) : (s.setWp v).mhT = s.mhT := rfl
@[simp] theorem State.setWp_mtI (v : BitVec 4) : (s.setWp v).mtI = s.mtI := rfl
@[simp] theorem State.setWp_mtT (v : BitVec 4) : (s.setWp v).mtT = s.mtT := rfl
@[simp] theorem State.setWp_fault (v : BitVec 4) : (s.setWp v).fault = s.fault := rfl
@[simp] theorem State.setWp_fcode (v : BitVec 4) : (s.setWp v).fcode = s.fcode := rfl
@[simp] theorem State.setWp_inputs (v : BitVec 4) : (s.setWp v).inputs = s.inputs := rfl

/-! ### `setCheck` -/

@[simp] theorem State.setCheck_acc (r : BitVec 2) (h t : Scaled) : (s.setCheck r h t).acc = s.acc := rfl
@[simp] theorem State.setCheck_raw (r : BitVec 2) (h t : Scaled) : (s.setCheck r h t).raw = s.raw := rfl
@[simp] theorem State.setCheck_sq (r : BitVec 2) (h t : Scaled) : (s.setCheck r h t).sq = s.sq := rfl
@[simp] theorem State.setCheck_sr (r : BitVec 2) (h t : Scaled) : (s.setCheck r h t).sr = s.sr := rfl
@[simp] theorem State.setCheck_fb (r : BitVec 2) (h t : Scaled) : (s.setCheck r h t).fb = s.fb := rfl
@[simp] theorem State.setCheck_wp (r : BitVec 2) (h t : Scaled) : (s.setCheck r h t).wp = s.wp := rfl
@[simp] theorem State.setCheck_res (r : BitVec 2) (h t : Scaled) : (s.setCheck r h t).res = r := rfl
@[simp] theorem State.setCheck_mhI (r : BitVec 2) (h t : Scaled) : (s.setCheck r h t).mhI = h.int := rfl
@[simp] theorem State.setCheck_mhT (r : BitVec 2) (h t : Scaled) : (s.setCheck r h t).mhT = h.tenths := rfl
@[simp] theorem State.setCheck_mtI (r : BitVec 2) (h t : Scaled) : (s.setCheck r h t).mtI = t.int := rfl
@[simp] theorem State.setCheck_mtT (r : BitVec 2) (h t : Scaled) : (s.setCheck r h t).mtT = t.tenths := rfl
@[simp] theorem State.setCheck_fault (r : BitVec 2) (h t : Scaled) : (s.setCheck r h t).fault = s.fault := rfl
@[simp] theorem State.setCheck_fcode (r : BitVec 2) (h t : Scaled) : (s.setCheck r h t).fcode = s.fcode := rfl
@[simp] theorem State.setCheck_inputs (r : BitVec 2) (h t : Scaled) : (s.setCheck r h t).inputs = s.inputs := rfl

/-! ### `raiseFault` -/

@[simp] theorem State.raiseFault_acc (c : BitVec 2) : (s.raiseFault c).acc = s.acc := rfl
@[simp] theorem State.raiseFault_raw (c : BitVec 2) : (s.raiseFault c).raw = s.raw := rfl
@[simp] theorem State.raiseFault_sq (c : BitVec 2) : (s.raiseFault c).sq = s.sq := rfl
@[simp] theorem State.raiseFault_sr (c : BitVec 2) : (s.raiseFault c).sr = s.sr := rfl
@[simp] theorem State.raiseFault_fb (c : BitVec 2) : (s.raiseFault c).fb = s.fb := rfl
@[simp] theorem State.raiseFault_wp (c : BitVec 2) : (s.raiseFault c).wp = s.wp := rfl
@[simp] theorem State.raiseFault_res (c : BitVec 2) : (s.raiseFault c).res = s.res := rfl
@[simp] theorem State.raiseFault_mhI (c : BitVec 2) : (s.raiseFault c).mhI = s.mhI := rfl
@[simp] theorem State.raiseFault_mhT (c : BitVec 2) : (s.raiseFault c).mhT = s.mhT := rfl
@[simp] theorem State.raiseFault_mtI (c : BitVec 2) : (s.raiseFault c).mtI = s.mtI := rfl
@[simp] theorem State.raiseFault_mtT (c : BitVec 2) : (s.raiseFault c).mtT = s.mtT := rfl
@[simp] theorem State.raiseFault_fault (c : BitVec 2) : (s.raiseFault c).fault = 1 := rfl
@[simp] theorem State.raiseFault_fcode (c : BitVec 2) : (s.raiseFault c).fcode = c := rfl
@[simp] theorem State.raiseFault_inputs (c : BitVec 2) : (s.raiseFault c).inputs = s.inputs := rfl

/-! ### `consume` -/

@[simp] theorem State.consume_acc : s.consume.acc = s.acc := rfl
@[simp] theorem State.consume_raw : s.consume.raw = s.raw := rfl
@[simp] theorem State.consume_sq : s.consume.sq = s.sq := rfl
@[simp] theorem State.consume_sr : s.consume.sr = s.sr := rfl
@[simp] theorem State.consume_fb : s.consume.fb = s.fb := rfl
@[simp] theorem State.consume_wp : s.consume.wp = s.wp := rfl
@[simp] theorem State.consume_res : s.consume.res = s.res := rfl
@[simp] theorem State.consume_mhI : s.consume.mhI = s.mhI := rfl
@[simp] theorem State.consume_mhT : s.consume.mhT = s.mhT := rfl
@[simp] theorem State.consume_mtI : s.consume.mtI = s.mtI := rfl
@[simp] theorem State.consume_mtT : s.consume.mtT = s.mtT := rfl
@[simp] theorem State.consume_fault : s.consume.fault = s.fault := rfl
@[simp] theorem State.consume_fcode : s.consume.fcode = s.fcode := rfl
@[simp] theorem State.consume_inputs : s.consume.inputs = s.inputs.tail := rfl

/-! ### `presented` -/

@[simp] theorem State.presented_acc (ps : List PortSample) : (s.presented ps).acc = s.acc := rfl
@[simp] theorem State.presented_raw (ps : List PortSample) : (s.presented ps).raw = s.raw := rfl
@[simp] theorem State.presented_sq (ps : List PortSample) : (s.presented ps).sq = s.sq := rfl
@[simp] theorem State.presented_sr (ps : List PortSample) : (s.presented ps).sr = s.sr := rfl
@[simp] theorem State.presented_fb (ps : List PortSample) : (s.presented ps).fb = s.fb := rfl
@[simp] theorem State.presented_wp (ps : List PortSample) : (s.presented ps).wp = s.wp := rfl
@[simp] theorem State.presented_res (ps : List PortSample) : (s.presented ps).res = s.res := rfl
@[simp] theorem State.presented_mhI (ps : List PortSample) : (s.presented ps).mhI = s.mhI := rfl
@[simp] theorem State.presented_mhT (ps : List PortSample) : (s.presented ps).mhT = s.mhT := rfl
@[simp] theorem State.presented_mtI (ps : List PortSample) : (s.presented ps).mtI = s.mtI := rfl
@[simp] theorem State.presented_mtT (ps : List PortSample) : (s.presented ps).mtT = s.mtT := rfl
@[simp] theorem State.presented_fault (ps : List PortSample) : (s.presented ps).fault = s.fault := rfl
@[simp] theorem State.presented_fcode (ps : List PortSample) : (s.presented ps).fcode = s.fcode := rfl
@[simp] theorem State.presented_inputs (ps : List PortSample) : (s.presented ps).inputs = ps ++ s.inputs := rfl

/-! ### `resetStep` -/

@[simp] theorem State.resetStep_acc : s.resetStep.acc = Config.crcInit := rfl
@[simp] theorem State.resetStep_raw : s.resetStep.raw = 0 := rfl
@[simp] theorem State.resetStep_sq : s.resetStep.sq = 0 := rfl
@[simp] theorem State.resetStep_sr : s.resetStep.sr = 0 := rfl
@[simp] theorem State.resetStep_fb : s.resetStep.fb = [] := rfl
@[simp] theorem State.resetStep_wp : s.resetStep.wp = 0 := rfl
@[simp] theorem State.resetStep_res : s.resetStep.res = 0 := rfl
@[simp] theorem State.resetStep_mhI : s.resetStep.mhI = 0 := rfl
@[simp] theorem State.resetStep_mhT : s.resetStep.mhT = 0 := rfl
@[simp] theorem State.resetStep_mtI : s.resetStep.mtI = 0 := rfl
@[simp] theorem State.resetStep_mtT : s.resetStep.mtT = 0 := rfl
@[simp] theorem State.resetStep_fault : s.resetStep.fault = 0 := rfl
@[simp] theorem State.resetStep_fcode : s.resetStep.fcode = 0 := rfl
@[simp] theorem State.resetStep_inputs : s.resetStep.inputs = s.inputs := rfl

/-! ### `recordCheck` -/

@[simp] theorem State.recordCheck_acc (c : CheckResult) : (s.recordCheck c).acc = s.acc := by cases c <;> rfl
@[simp] theorem State.recordCheck_raw (c : CheckResult) : (s.recordCheck c).raw = s.raw := by cases c <;> rfl
@[simp] theorem State.recordCheck_sq (c : CheckResult) : (s.recordCheck c).sq = s.sq := by cases c <;> rfl
@[simp] theorem State.recordCheck_sr (c : CheckResult) : (s.recordCheck c).sr = s.sr := by cases c <;> rfl
@[simp] theorem State.recordCheck_fb (c : CheckResult) : (s.recordCheck c).fb = s.fb := by cases c <;> rfl
@[simp] theorem State.recordCheck_wp (c : CheckResult) : (s.recordCheck c).wp = s.wp := by cases c <;> rfl
@[simp] theorem State.recordCheck_sensorErr_res : (s.recordCheck .sensorErr).res = Res.sensorErr := rfl
@[simp] theorem State.recordCheck_ok_res (h t : Scaled) : (s.recordCheck (.ok h t)).res = Res.ok := rfl
@[simp] theorem State.recordCheck_sensorErr_mhI : (s.recordCheck .sensorErr).mhI = 0 := rfl
@[simp] theorem State.recordCheck_ok_mhI (h t : Scaled) : (s.recordCheck (.ok h t)).mhI = h.int := rfl
@[simp] theorem State.recordCheck_sensorErr_mhT : (s.recordCheck .sensorErr).mhT = 0 := rfl
@[simp] theorem State.recordCheck_ok_mhT (h t : Scaled) : (s.recordCheck (.ok h t)).mhT = h.tenths := rfl
@[simp] theorem State.recordCheck_sensorErr_mtI : (s.recordCheck .sensorErr).mtI = 0 := rfl
@[simp] theorem State.recordCheck_ok_mtI (h t : Scaled) : (s.recordCheck (.ok h t)).mtI = t.int := rfl
@[simp] theorem State.recordCheck_sensorErr_mtT : (s.recordCheck .sensorErr).mtT = 0 := rfl
@[simp] theorem State.recordCheck_ok_mtT (h t : Scaled) : (s.recordCheck (.ok h t)).mtT = t.tenths := rfl
@[simp] theorem State.recordCheck_fault (c : CheckResult) : (s.recordCheck c).fault = s.fault := by cases c <;> rfl
@[simp] theorem State.recordCheck_fcode (c : CheckResult) : (s.recordCheck c).fcode = s.fcode := by cases c <;> rfl
@[simp] theorem State.recordCheck_inputs (c : CheckResult) : (s.recordCheck c).inputs = s.inputs := by cases c <;> rfl

end Sys2Proof.Machine
end

