-- ==== Sys2Proof/Laws/Ops.lean ====
section
/-! SUPPORT. What each shared operation can do, said once; and what one step can do. -/

namespace Sys2Proof.Machine

/-- A 1-bit register that is not 1 is 0. -/
theorem bit_ne_one {b : BitVec 1} : b ≠ 1 ↔ b = 0 := by
  revert b
  decide

/-! ### The freeze -/

theorem unlessFaulted_faulted {s : State} (h : s.fault = 1) (r : Result) : unlessFaulted s r = .next s := if_pos h

theorem unlessFaulted_running {s : State} (h : s.fault = 0) (r : Result) : unlessFaulted s r = r :=
  if_neg (bit_ne_one.mpr h)

/-- A guarded command that answers a next state was frozen, or answered it itself. -/
theorem unlessFaulted_next {s t : State} {r : Result} (h : unlessFaulted s r = .next t) :
    (s.fault = 1 ∧ t = s) ∨ (s.fault = 0 ∧ r = .next t) := by
  by_cases hf : s.fault = 1
  · rw [unlessFaulted_faulted hf] at h
    cases h
    exact .inl ⟨hf, rfl⟩
  · replace hf := bit_ne_one.mp hf
    rw [unlessFaulted_running hf] at h
    exact .inr ⟨hf, h⟩

/-! ### Going on -/

@[simp] theorem andThen_next (s : State) (k : State → Result) : andThen (.next s) k = k s := rfl

@[simp] theorem andThen_fault (e : Fault) (k : State → Result) : andThen (.fault e) k = .fault e := rfl

/-- A continuation reached a next state only from a next state. -/
theorem andThen_eq_next {r : Result} {k : State → Result} {t : State} (h : andThen r k = .next t) :
    ∃ s, r = .next s ∧ k s = .next t := by
  cases r with
  | next s => exact ⟨s, rfl, h⟩
  | fault e => cases h
  | refused e => cases h

/-! ### The store and the pointer -/

theorem State.storeCell_cell (s : State) {i : Nat} (b : Byte) (h : i < Config.frameLen) :
    s.storeCell i b = { s with fb := s.fb.put i b } := if_pos h

theorem State.storeCell_outside (s : State) {i : Nat} (b : Byte) (h : ¬ i < Config.frameLen) :
    s.storeCell i b = s := if_neg h

/-- All that a store can change: the frame buffer. -/
theorem State.storeCell_eq (s : State) (i : Nat) (b : Byte) :
    s.storeCell i b = { s with fb := if i < Config.frameLen then s.fb.put i b else s.fb } := by
  by_cases h : i < Config.frameLen
  · rw [State.storeCell_cell s b h, if_pos h]
  · rw [State.storeCell_outside s b h, if_neg h]

/-- A store leaves every byte but the one at its index. -/
theorem State.storeCell_read_other (s : State) {i a : Nat} (b : Byte) (h : a ≠ i) :
    (s.storeCell i b).fb.read a = s.fb.read a := by
  rw [State.storeCell_eq]
  show Memory.read (if i < Config.frameLen then s.fb.put i b else s.fb) a = _
  split_ifs
  · exact Memory.read_put_other _ b h
  · rfl

/-- Where `WP + 1` fits its 4 bits, the pointer is that. -/
theorem nextPointer_fits {wp : BitVec 4} (b : Byte) (h : wp ≠ 15) : nextPointer wp b = wp + 1 := if_neg h

/-- All that an illegal word can do (60_exceptions.md R183, R187). -/
theorem raiseIllegal_next {s t : State} (h : raiseIllegal s = .next t) :
    (s.fault = 1 ∧ t = s) ∨ (s.fault = 0 ∧ t = s.raiseFault FCode.illegal) := by
  obtain h | ⟨h0, h⟩ := unlessFaulted_next h
  · exact .inl h
  · cases h
    exact .inr ⟨h0, rfl⟩

/-! ### Sampling -/

theorem PortSample.input_reset {p : PortSample} (h : p.rst = 1) : p.input = .reset := if_pos h

theorem PortSample.input_idle {p : PortSample} (h : p.rst = 0) (hv : p.cmdValid = 0) : p.input = .idle := by
  simp [PortSample.input, h, hv]

theorem PortSample.input_cmd {p : PortSample} (h : p.rst = 0) (hv : p.cmdValid = 1) : p.input = .cmd p.cmd := by
  simp [PortSample.input, h, hv]

@[simp] theorem cmdSample_input (w : CmdWord) : (cmdSample w).input = .cmd w := rfl

theorem State.sampled_nil {s : State} (h : s.inputs = []) : s.sampled = .idle := by
  simp [State.sampled, h]

theorem State.sampled_cons {s : State} {p : PortSample} {ps : List PortSample} (h : s.inputs = p :: ps) :
    s.sampled = p.input := by
  simp [State.sampled, h]

theorem State.consume_cons {s : State} {p : PortSample} {ps : List PortSample} (h : s.inputs = p :: ps) :
    s.consume = { s with inputs := ps } := by
  simp [State.consume, h]

@[simp] theorem State.consume_presented (s : State) (p : PortSample) (ps : List PortSample) :
    (s.presented (p :: ps)).consume = s.presented ps := rfl

@[simp] theorem State.sampled_presented (s : State) (p : PortSample) (ps : List PortSample) :
    (s.presented (p :: ps)).sampled = p.input := rfl

@[simp] theorem State.presented_nil (s : State) : s.presented [] = s := rfl

/-! ### One step -/

/-- All that a step can do, guards included (00_scope.md R10, 60_exceptions.md R186). -/
theorem step_cases {s t : State} (h : step s = .next t) :
    (s.sampled = .reset ∧ t = s.consume.resetStep) ∨
    (s.sampled = .idle ∧ t = s.consume) ∨
    (∃ w, s.sampled = .cmd w ∧ decode w = none ∧ raiseIllegal s.consume = .next t) ∨
    (∃ w i, s.sampled = .cmd w ∧ decode w = some i ∧ exec i s.consume = .next t) := by
  unfold step at h
  cases hs : s.sampled with
  | reset =>
    simp only [hs] at h
    cases h
    exact .inl ⟨rfl, rfl⟩
  | idle =>
    simp only [hs] at h
    cases h
    exact .inr (.inl ⟨rfl, rfl⟩)
  | cmd w =>
    cases hd : decode w with
    | none =>
      simp only [hs, hd] at h
      exact .inr (.inr (.inl ⟨w, rfl, hd, h⟩))
    | some i =>
      simp only [hs, hd] at h
      exact .inr (.inr (.inr ⟨w, i, rfl, hd, h⟩))

end Sys2Proof.Machine
end

