-- ==== Sys2Proof/Laws/Exec.lean ====
section
/-! SUPPORT. What each command's meaning can do, said once: if it answers a next state, then that state is the frozen
state (60_exceptions.md R187) or the one its rule gives. -/

namespace Sys2Proof.Machine

variable {s t : State}

theorem execCrcinit_next (h : execCrcinit s = .next t) :
    (s.fault = 1 ∧ t = s) ∨ (s.fault = 0 ∧ t = s.setAcc Config.crcInit) := by
  obtain h | ⟨h0, h⟩ := unlessFaulted_next h
  · exact .inl h
  · cases h
    exact .inr ⟨h0, rfl⟩

theorem execCrcbyte_next {b : Byte} (h : execCrcbyte b s = .next t) :
    (s.fault = 1 ∧ t = s) ∨ (s.fault = 0 ∧ t = s.setAcc (crcStep s.acc b)) := by
  obtain h | ⟨h0, h⟩ := unlessFaulted_next h
  · exact .inl h
  · cases h
    exact .inr ⟨h0, rfl⟩

theorem execCombine_next {x y : Byte} (h : execCombine x y s = .next t) :
    (s.fault = 1 ∧ t = s) ∨ (s.fault = 0 ∧ t = s.setRaw (combine x y)) := by
  obtain h | ⟨h0, h⟩ := unlessFaulted_next h
  · exact .inl h
  · cases h
    exact .inr ⟨h0, rfl⟩

theorem execScale_next {v : Word} (h : execScale v s = .next t) :
    (s.fault = 1 ∧ t = s) ∨ (s.fault = 0 ∧ t = s.setScaled (scale10 v)) := by
  obtain h | ⟨h0, h⟩ := unlessFaulted_next h
  · exact .inl h
  · cases h
    exact .inr ⟨h0, rfl⟩

theorem execDecode_next {x y : Byte} (h : execDecode x y s = .next t) :
    (s.fault = 1 ∧ t = s) ∨
    (s.fault = 0 ∧ t = (s.setRaw (combine x y)).setScaled (scale10 (combine x y))) := by
  obtain h | ⟨h0, h⟩ := unlessFaulted_next h
  · exact .inl h
  · cases h
    exact .inr ⟨h0, rfl⟩

theorem execFclr_next (h : execFclr s = .next t) :
    (s.fault = 1 ∧ t = s) ∨ (s.fault = 0 ∧ t = (s.setWp 0).setCheck Res.none zeroScaled zeroScaled) := by
  obtain h | ⟨h0, h⟩ := unlessFaulted_next h
  · exact .inl h
  · cases h
    exact .inr ⟨h0, rfl⟩

theorem execFpush_next {b : Byte} (h : execFpush b s = .next t) :
    (s.fault = 1 ∧ t = s) ∨
    (s.fault = 0 ∧ s.wp = 8 ∧ t = s.raiseFault FCode.frameOverflow) ∨
    (s.fault = 0 ∧ s.wp ≠ 8 ∧ t = (s.storeCell s.wp.toNat b).setWp (nextPointer s.wp b)) := by
  obtain h | ⟨h0, h⟩ := unlessFaulted_next h
  · exact .inl h
  · split at h
    · cases h
      exact .inr (.inl ⟨h0, ‹_›, rfl⟩)
    · cases h
      exact .inr (.inr ⟨h0, ‹_›, rfl⟩)

/-- When FPUSH stores: a cell is left. -/
theorem execFpush_store {b : Byte} (h0 : s.fault = 0) (hw : s.wp.toNat < Config.frameLen) :
    execFpush b s = .next { s with fb := s.fb.put s.wp.toNat b, wp := s.wp + 1 } := by
  have small : ∀ k : BitVec 4, Config.frameLen ≤ k.toNat → s.wp ≠ k := fun k hk h => by
    rw [h] at hw
    omega
  rw [execFpush, unlessFaulted_running h0, if_neg (small 8 (by decide)), State.storeCell_cell s b hw,
    nextPointer_fits b (small 15 (by decide))]
  rfl

theorem execFchk_next (h : execFchk s = .next t) :
    (s.fault = 1 ∧ t = s) ∨
    (s.fault = 0 ∧ s.wp ≠ 8 ∧ t = s.raiseFault FCode.frameIncomplete) ∨
    (s.fault = 0 ∧ s.wp = 8 ∧ t = s.recordCheck (validate s.fb.frame)) := by
  obtain h | ⟨h0, h⟩ := unlessFaulted_next h
  · exact .inl h
  · split at h
    · cases h
      exact .inr (.inr ⟨h0, ‹_›, rfl⟩)
    · cases h
      exact .inr (.inl ⟨h0, ‹_›, rfl⟩)

/-- What a check accepts, cell by cell (42_frame_check.md R131). -/
theorem validate_ok {f : Frame} {hum tmp : Scaled} (h : validate f = .ok hum tmp) :
    headerOk f = true ∧ checksumOk f = true ∧ hum = scale10 (combine f[2] f[3]) ∧ tmp = scale10 (combine f[4] f[5]) := by
  unfold validate at h
  split at h
  · split at h
    · cases h
      exact ⟨‹_›, ‹_›, rfl, rfl⟩
    · cases h
  · cases h

/-- The cells of the frame a buffer holds. -/
theorem Memory.frame_eq (m : Memory) :
    m.frame = #v[m.lookup 0, m.lookup 1, m.lookup 2, m.lookup 3, m.lookup 4, m.lookup 5, m.lookup 6, m.lookup 7] := rfl

theorem headerOk_frame (m : Memory) :
    headerOk m.frame = (m.lookup 0 == Config.funcCode && m.lookup 1 == Config.regCount) := rfl

theorem checksumOk_frame (m : Memory) :
    checksumOk m.frame =
      (crc16 [m.lookup 0, m.lookup 1, m.lookup 2, m.lookup 3, m.lookup 4, m.lookup 5]
        == combine (m.lookup 7) (m.lookup 6)) := rfl

end Sys2Proof.Machine
end

