-- ==== Sys2Proof/Laws/PerInstr.lean ====
section
/-! SUPPORT. Statements made command by command, one lemma per constructor of `Instr`. -/

/-- The command's word lies in the opcode-table row of its mnemonic and format (30_encoding.md R73), whatever its operands. -/
def Sys2Proof.Laws.EncodingInRow.Statement (i : Sys2Proof.Instr) : Prop :=
  ∃ r ∈ Sys2Proof.opcodeTable,
    r.mnemonic = i.mnemonic ∧ r.format = i.format ∧ r.holds (Sys2Proof.encode i) = true

namespace Sys2Proof.Laws

/-- Under the mask of formats H and W only the opcode is left. -/
theorem and_opMask (op a b : Byte) : wordOf op a b &&& 0xFF0000 = wordOf op 0 0 := by
  rw [show (0xFF0000 : CmdWord) = wordOf 0xFF 0 0 from rfl]
  apply BitVec.eq_of_getLsbD_eq
  intro k hk
  simp only [BitVec.getLsbD_and, getLsbD_wordOf]
  split_ifs
  · simp
  · simp
  · have h : ∀ j : Fin 8, (0xFF : Byte).getLsbD j.val = true := by decide
    rw [h ⟨k - 16, by omega⟩, Bool.and_true]

/-- Under the mask of format B the opcode and byte A are left. -/
theorem and_opAMask (op b : Byte) : wordOf op 0 b &&& 0xFFFF00 = wordOf op 0 0 := by
  rw [show (0xFFFF00 : CmdWord) = wordOf 0xFF 0xFF 0 from rfl]
  apply BitVec.eq_of_getLsbD_eq
  intro k hk
  simp only [BitVec.getLsbD_and, getLsbD_wordOf]
  split_ifs
  · simp
  · simp
  · have h : ∀ j : Fin 8, (0xFF : Byte).getLsbD j.val = true := by decide
    rw [h ⟨k - 16, by omega⟩, Bool.and_true]

theorem EncodingInRow.crcinit : EncodingInRow.Statement .crcinit :=
  ⟨⟨"CRCINIT", .N, 0x010000, 0xFFFFFF⟩, by simp [opcodeTable], rfl, rfl, rfl⟩

theorem EncodingInRow.crcbyte (b : Byte) : EncodingInRow.Statement (.crcbyte b) :=
  ⟨⟨"CRCBYTE", .B, 0x020000, 0xFFFF00⟩, by simp [opcodeTable], rfl, rfl, by
    rw [Row.holds, encode_crcbyte, and_opAMask]; rfl⟩

theorem EncodingInRow.combine (h l : Byte) : EncodingInRow.Statement (.combine h l) :=
  ⟨⟨"COMBINE", .H, 0x030000, 0xFF0000⟩, by simp [opcodeTable], rfl, rfl, by
    rw [Row.holds, encode_combine, and_opMask]; rfl⟩

theorem EncodingInRow.scale (v : Word) : EncodingInRow.Statement (.scale v) :=
  ⟨⟨"SCALE", .W, 0x040000, 0xFF0000⟩, by simp [opcodeTable], rfl, rfl, by
    rw [Row.holds, encode_scale, and_opMask]; rfl⟩

theorem EncodingInRow.decode (h l : Byte) : EncodingInRow.Statement (.decode h l) :=
  ⟨⟨"DECODE", .H, 0x050000, 0xFF0000⟩, by simp [opcodeTable], rfl, rfl, by
    rw [Row.holds, encode_decode, and_opMask]; rfl⟩

theorem EncodingInRow.fclr : EncodingInRow.Statement .fclr :=
  ⟨⟨"FCLR", .N, 0x100000, 0xFFFFFF⟩, by simp [opcodeTable], rfl, rfl, rfl⟩

theorem EncodingInRow.fpush (b : Byte) : EncodingInRow.Statement (.fpush b) :=
  ⟨⟨"FPUSH", .B, 0x110000, 0xFFFF00⟩, by simp [opcodeTable], rfl, rfl, by
    rw [Row.holds, encode_fpush, and_opAMask]; rfl⟩

theorem EncodingInRow.fchk : EncodingInRow.Statement .fchk :=
  ⟨⟨"FCHK", .N, 0x120000, 0xFFFFFF⟩, by simp [opcodeTable], rfl, rfl, rfl⟩

end Sys2Proof.Laws
end

