-- ==== Sys2Proof/Laws/Run.lean ====
section
/-! SUPPORT. A sequence of presented samples, one edge at a time; and that no command reads the samples still to come. -/

namespace Sys2Proof.Machine

/-- A command answers the same whatever samples are still to come. -/
theorem exec_presented (i : Instr) (s : State) (ps : List PortSample) :
    exec i (s.presented ps) = andThen (exec i s) fun t => .next (t.presented ps) := by
  by_cases hf : s.fault = 1
  · cases i <;>
      simp only [exec, execCrcinit, execCrcbyte, execCombine, execScale, execDecode, execFclr, execFpush, execFchk] <;>
      rw [unlessFaulted_faulted hf, unlessFaulted_faulted (by simpa using hf)] <;> rfl
  · have h0 := bit_ne_one.mp hf
    have h0' : (s.presented ps).fault = 0 := h0
    cases i with
    | fpush b =>
      simp only [exec, execFpush, unlessFaulted_running h0, unlessFaulted_running h0']
      by_cases h8 : s.wp = 8
      · have h8' : (s.presented ps).wp = 8 := h8
        rw [if_pos h8, if_pos h8']
        rfl
      · have h8' : ¬ (s.presented ps).wp = 8 := h8
        rw [if_neg h8, if_neg h8']
        rw [State.storeCell_eq, State.storeCell_eq]
        rfl
    | fchk =>
      simp only [exec, execFchk, unlessFaulted_running h0, unlessFaulted_running h0']
      by_cases h8 : s.wp = 8
      · have h8' : (s.presented ps).wp = 8 := h8
        rw [if_pos h8, if_pos h8', State.presented_fb, andThen_next]
        cases validate s.fb.frame <;> rfl
      · have h8' : ¬ (s.presented ps).wp = 8 := h8
        rw [if_neg h8, if_neg h8']
        rfl
    | crcinit => simp only [exec, execCrcinit, unlessFaulted_running h0, unlessFaulted_running h0']; rfl
    | crcbyte b => simp only [exec, execCrcbyte, unlessFaulted_running h0, unlessFaulted_running h0']; rfl
    | combine h l => simp only [exec, execCombine, unlessFaulted_running h0, unlessFaulted_running h0']; rfl
    | scale v => simp only [exec, execScale, unlessFaulted_running h0, unlessFaulted_running h0']; rfl
    | decode h l => simp only [exec, execDecode, unlessFaulted_running h0, unlessFaulted_running h0']; rfl
    | fclr => simp only [exec, execFclr, unlessFaulted_running h0, unlessFaulted_running h0']; rfl

theorem raiseIllegal_presented (s : State) (ps : List PortSample) :
    raiseIllegal (s.presented ps) = andThen (raiseIllegal s) fun t => .next (t.presented ps) := by
  by_cases hf : s.fault = 1
  · rw [raiseIllegal, raiseIllegal, unlessFaulted_faulted hf, unlessFaulted_faulted (by simpa using hf)]
    rfl
  · have h0 := bit_ne_one.mp hf
    rw [raiseIllegal, raiseIllegal, unlessFaulted_running h0, unlessFaulted_running (by simpa using h0)]
    rfl

/-- A step on several listed samples is the edge of the first, and the rest stay listed. -/
theorem step_presented (s : State) (p : PortSample) (ps : List PortSample) :
    step (s.presented (p :: ps)) = andThen (s.edge p) fun t => .next (t.presented ps) := by
  unfold State.edge step
  simp only [State.sampled_presented, State.consume_presented, State.presented_nil]
  cases p.input with
  | reset => rfl
  | idle => rfl
  | cmd w =>
    cases hd : decode w with
    | none => simpa only [hd] using raiseIllegal_presented s ps
    | some i => simpa only [hd] using exec_presented i s ps

@[simp] theorem State.play_nil (s : State) : s.play [] = .next s := rfl

theorem State.play_cons (s : State) (p : PortSample) (ps : List PortSample) :
    s.play (p :: ps) = andThen (s.edge p) fun t => t.play ps := by
  show Host.Core.run Sys2Proof.core (ps.length + 1) (s.presented (p :: ps)) = _
  have h : Sys2Proof.core.step (s.presented (p :: ps)) = _ := step_presented s p ps
  simp only [Host.Core.run, h]
  cases s.edge p <;> rfl

/-! ### One edge, by what it samples -/

theorem State.edge_reset (s : State) {p : PortSample} (h : p.input = .reset) : s.edge p = .next s.resetStep := by
  simp only [State.edge, step, State.sampled_presented, h]
  rfl

theorem State.edge_idle (s : State) {p : PortSample} (h : p.input = .idle) : s.edge p = .next s := by
  simp only [State.edge, step, State.sampled_presented, h]
  rfl

theorem State.edge_illegal (s : State) {p : PortSample} {w : CmdWord} (h : p.input = .cmd w) (hd : decode w = none) :
    s.edge p = raiseIllegal s := by
  simp only [State.edge, step, State.sampled_presented, h, hd]
  rfl

theorem State.edge_command (s : State) {p : PortSample} {i : Instr} (h : p.command = some i) : s.edge p = exec i s := by
  unfold PortSample.command at h
  cases hp : p.input with
  | reset => simp [hp] at h
  | idle => simp [hp] at h
  | cmd w =>
    simp only [hp] at h
    simp only [State.edge, step, State.sampled_presented, hp, h]
    rfl

end Sys2Proof.Machine
end

