-- ==== Sys2Proof/Machine/Assembly.lean ====
section
/-! DEFINITION. The assembler text of a command and of a word (30_encoding.md R70, R82). -/

namespace Sys2Proof

/-- A hexadecimal digit in capitals. -/
def hexDigit (n : Nat) : Char := if n < 10 then Char.ofNat (48 + n) else Char.ofNat (55 + n)

/-- The `n` low hexadecimal digits of a number, most significant first. -/
def hexDigits : Nat → Nat → List Char
  | 0, _ => []
  | n + 1, v => hexDigits n (v / 16) ++ [hexDigit (v % 16)]

/-- `0x` and `n` digits. -/
def hexNumeral (n v : Nat) : List Char := ['0', 'x'] ++ hexDigits n v

/-- A command's text: mnemonic in capitals, operands separated by commas, a byte as `0xHH`, SCALE's operand as `0xHHHH`
(30_encoding.md R82). DESIGN CHOICE (log 12): of SCALE's two spellings the hexadecimal one, digits in capitals. Safe. -/
def Instr.text (i : Instr) : List Char :=
  i.mnemonic.toList ++
  match i with
  | .crcinit => []
  | .crcbyte b => ' ' :: hexNumeral 2 b.toNat
  | .combine h l => ' ' :: hexNumeral 2 h.toNat ++ [',', ' '] ++ hexNumeral 2 l.toNat
  | .scale v => ' ' :: hexNumeral 4 v.toNat
  | .decode h l => ' ' :: hexNumeral 2 h.toNat ++ [',', ' '] ++ hexNumeral 2 l.toNat
  | .fclr => []
  | .fpush b => ' ' :: hexNumeral 2 b.toNat
  | .fchk => []

/-- A command word as six hexadecimal digits, `0xOOAABB` (30_encoding.md R70). -/
def wordText (w : CmdWord) : List Char := hexNumeral 6 w.toNat

end Sys2Proof
end

