-- ==== Sys2Proof/Tests/Slice0.lean ====
section
/-! SUPPORT. The model's own tests: expected values are the spec's (each test names where), one step each; and for every
statement of Certificates/Slice0/Obligations.lean with hypotheses, a state and operands that meet them. -/

namespace Sys2Proof.Tests

open Sys2Proof.Machine Sys2Proof.Safety

/-! ### Small states -/

/-- The cells of the frame `03 04 02 36 00 DB 50 05` (95_test_vectors.md P2). -/
def goodCells : Memory :=
  [(0, 0x03), (1, 0x04), (2, 0x02), (3, 0x36), (5, 0xDB), (6, 0x50), (7, 0x05)]

/-- The cells of the frame `03 04 02 36 00 DB 05 50`, CRC bytes swapped (95_test_vectors.md T35). -/
def swappedCells : Memory :=
  [(0, 0x03), (1, 0x04), (2, 0x02), (3, 0x36), (5, 0xDB), (6, 0x05), (7, 0x50)]

/-- A frame buffer with `WP = w`. -/
def loaded (m : Memory) (w : BitVec 4) : State := { State.reset with fb := m, wp := w }

/-- The end state of P2: `RES = 1`, 56.6, 21.9. -/
def checked : State := { loaded goodCells 8 with res := 1, mhI := 56, mhT := 6, mtI := 21, mtT := 9 }

/-- A faulted state. -/
def faulted : State := { State.reset with fault := 1, fcode := 1 }

/-- A state about to sample one command word. -/
def about (s : State) (w : CmdWord) : State := s.presented [cmdSample w]

/-- The next state has a property. -/
def nextHas (r : Result) (p : State → Bool) : Bool :=
  match r with
  | .next t => p t
  | .fault _ => false
  | .refused _ => false

/-- A sample that resets, with a command presented beside it. -/
def resetSample : PortSample := ⟨1, 1, 0x020003⟩

/-- A sample with `cmd_valid = 0`. -/
def idleSample : PortSample := ⟨0, 0, 0x020003⟩

/-! ### Well-formedness: an ill-formed term for each check (30_encoding.md R71, R83) -/

theorem test_wf_N_refuses_A : Format.N.admits 0x01 0x00 = false := by decide
theorem test_wf_N_refuses_B : Format.N.admits 0x00 0x01 = false := by decide
theorem test_wf_B_refuses_A : Format.B.admits 0x01 0x36 = false := by decide
theorem test_wf_B_admits_operand : Format.B.admits 0x00 0xFF = true := by decide
theorem test_wf_frame_refuses_seven : (Pseudo.frame [3, 4, 2, 0x36, 0, 0xDB, 0x50]).wellFormed = false := by decide
theorem test_wf_validate_refuses_nine : (Pseudo.validate [3, 4, 2, 0x36, 0, 0xDB, 0x50, 5, 0xAA]).wellFormed = false := by decide
theorem test_wf_validate_admits_eight : (Pseudo.validate [3, 4, 2, 0x36, 0, 0xDB, 0x50, 5]).wellFormed = true := by decide

/-! ### Decoding: words written bit by bit from the `encoding` strings of opcode_table.json -/

theorem test_decode_crcinit : decode 0b000000010000000000000000 = some .crcinit := by decide
theorem test_decode_crcbyte : decode 0b000000100000000000110110 = some (.crcbyte 0x36) := by decide
theorem test_decode_combine : decode 0b000000111100010100000001 = some (.combine 0xC5 0x01) := by decide
theorem test_decode_scale : decode 0b000001000000001000110110 = some (.scale 566) := by decide
theorem test_decode_decode : decode 0b000001010000001000110110 = some (.decode 0x02 0x36) := by decide
theorem test_decode_fclr : decode 0b000100000000000000000000 = some .fclr := by decide
theorem test_decode_fpush : decode 0b000100010000000011011011 = some (.fpush 0xDB) := by decide
theorem test_decode_fchk : decode 0b000100100000000000000000 = some .fchk := by decide

/-- 95_test_vectors.md T44, T45, T46: an assigned opcode with a must-be-zero byte not zero. -/
theorem test_decode_must_be_zero :
    illegalReason 0x010001 = some (.mustBeZero .N 0x00 0x01) ∧ illegalReason 0x020136 = some (.mustBeZero .B 0x01 0x36) ∧
    illegalReason 0x120100 = some (.mustBeZero .N 0x01 0x00) := by decide

/-- 95_test_vectors.md T42, T43, T47, T48: reserved opcodes. -/
theorem test_decode_reserved :
    illegalReason 0x000000 = some (.reservedOpcode 0x00) ∧ illegalReason 0xFFFFFF = some (.reservedOpcode 0xFF) ∧
    illegalReason 0x060000 = some (.reservedOpcode 0x06) ∧ illegalReason 0x130000 = some (.reservedOpcode 0x13) := by
  decide

/-- A table word of 24 bits, and one too wide for the port (30_encoding.md R70). -/
theorem test_decodeTableWord :
    decodeTableWord 24 0x0200DB = some (.crcbyte 0xDB) ∧ decodeTableWord 32 0x1020000 = none := by decide

/-- 30_encoding.md R82: `COMBINE 0xC5, 0x01`. -/
theorem test_text_combine :
    (Instr.combine 0xC5 0x01).text = ['C', 'O', 'M', 'B', 'I', 'N', 'E', ' ', '0', 'x', 'C', '5', ',', ' ', '0', 'x', '0', '1'] := by
  decide

/-- 30_encoding.md R82: `0x1100DB`. -/
theorem test_wordText : wordText (encode (.fpush 0xDB)) = ['0', 'x', '1', '1', '0', '0', 'D', 'B'] := by decide

/-! ### One step of each command -/

/-- 40_crc.md R94, its example. -/
theorem test_crcinit :
    nextHas (step (about { State.reset with acc := 0x0550 } 0x010000)) (fun t => t.acc == 0xFFFF) = true := by decide

/-- 40_crc.md R95, its example; 95_test_vectors.md T1. -/
theorem test_crcbyte_first : nextHas (step (about State.reset 0x020003)) (fun t => t.acc == 0x41FF) = true := by decide

/-- 95_test_vectors.md T11. -/
theorem test_crcbyte_middle :
    nextHas (exec (.crcbyte 0x56) { State.reset with acc := 0x1234 }) (fun t => t.acc == 0xE993) = true := by decide

/-- 41_decode_scale.md R113, its example; the scaled pair stays (95_test_vectors.md P5). -/
theorem test_combine :
    nextHas (step (about { State.reset with sq := 21, sr := 9 } 0x03C501))
      (fun t => t.raw == 0xC501 && t.sq == 21 && t.sr == 9) = true := by decide

/-- 41_decode_scale.md R114, its example; `RAW` stays (95_test_vectors.md P5). -/
theorem test_scale :
    nextHas (step (about { State.reset with raw := 0xC501 } 0x040236))
      (fun t => t.sq == 56 && t.sr == 6 && t.raw == 0xC501) = true := by decide

/-- 95_test_vectors.md T30o. -/
theorem test_scale_largest :
    nextHas (step (about State.reset 0x04FFFF)) (fun t => t.sq == 6553 && t.sr == 5) = true := by decide

/-- 95_test_vectors.md T28: no sign decoding. -/
theorem test_decode_unsigned :
    nextHas (step (about State.reset 0x058065)) (fun t => t.raw == 0x8065 && t.sq == 3286 && t.sr == 9) = true := by
  decide

/-- 42_frame_check.md R132, its example; `FB` stays (20_memory.md R52). -/
theorem test_fclr :
    nextHas (step (about checked 0x100000))
      (fun t => t.wp == 0 && t.res == 0 && t.mhI == 0 && t.mhT == 0 && t.mtI == 0 && t.mtT == 0 && t.fb == goodCells)
        = true := by decide

/-- 42_frame_check.md R133, its example. -/
theorem test_fpush :
    nextHas (step (about (loaded [(0, 0x03), (1, 0x04)] 2) 0x110002))
      (fun t => t.wp == 3 && t.fb == [(0, 0x03), (1, 0x04), (2, 0x02)]) = true := by decide

/-- 95_test_vectors.md T49: the ninth byte, `STATUS = 0x0188`. Past the buffer (`WP = 9`, before a first reset) the rule's
words alone: no fault, no cell of that index, `WP + 1` (42_frame_check.md R133, 00_scope.md R10, R14). -/
theorem test_fpush_overflow :
    nextHas (step (about (loaded goodCells 8) 0x1100AA))
      (fun t => t.status == 0x0188 && t.fb == goodCells && t.wp == 8) = true ∧
    nextHas (step (about (loaded goodCells 9) 0x1100AA))
      (fun t => t.fault == 0 && t.fb == goodCells && t.wp == 10) = true := by decide

/-- 42_frame_check.md R135, its example (temperature 21.9, 90_conflicts.md C1; 95_test_vectors.md T31); and T35, CRC bytes
swapped, `STATUS = 0x0028`. -/
theorem test_fchk_result :
    nextHas (exec .fchk (loaded goodCells 8)) (fun t => t == checked) = true ∧
    nextHas (exec .fchk (loaded swappedCells 8)) (fun t => t.status == 0x0028 && t.mhI == 0 && t.mtI == 0) = true := by
  decide +kernel

/-- 95_test_vectors.md T51: a check with nothing loaded, `STATUS = 0x01C0`. -/
theorem test_fchk_incomplete :
    nextHas (step (about State.reset 0x120000)) (fun t => t.status == 0x01C0) = true := by decide

/-- 95_test_vectors.md T46: `ILLEGAL`, not `FRAME_INCOMPLETE`, `STATUS = 0x0140`. -/
theorem test_illegal_before_precondition :
    nextHas (step (about State.reset 0x120100)) (fun t => t.status == 0x0140) = true := by decide

/-- 95_test_vectors.md T53: a faulted block ignores a second illegal word and a CRCBYTE. -/
theorem test_frozen :
    nextHas (step (about faulted 0xFFFFFF)) (fun t => t == faulted) = true ∧
    nextHas (step (about faulted 0x020003)) (fun t => t == faulted) = true := by decide

/-- 95_test_vectors.md T54: a reset step after a fault, the command beside it lost (70_reset_and_hazards.md R210). -/
theorem test_reset_step :
    nextHas (step ({ checked with fault := 1, fcode := 2 }.presented [resetSample])) (fun t => t == State.reset) = true := by
  decide

/-- 10_state.md R30: `STATUS = 0x0018` in the end state of 95_test_vectors.md P2. -/
theorem test_status : checked.ports.status = 0x0018 ∧ checked.ports.measValid = 1 ∧ checked.ports.sensorErr = 0 := by
  decide

/-- The host asks: a table word run as the first command after reset. -/
theorem test_withFetchWord :
    nextHas (step (State.reset.withFetchWord 24 0x03C501)) (fun t => t.raw == 0xC501 && t.inputs == []) = true := by decide

/-! ### Witnesses: the hypotheses of each statement are met -/

theorem witness_DecodeAndEncodeAgree : decode 0x05FFFF = some (.decode 0xFF 0xFF) := by decide

theorem witness_IllegalWordsRaiseIllegal :
    let s := about State.reset 0x060000
    s.inputs = [cmdSample 0x060000] ∧ (cmdSample 0x060000).rst = 0 ∧ (cmdSample 0x060000).cmdValid = 1 ∧ s.fault = 0 ∧
      decode (cmdSample 0x060000).cmd = none := by decide

/-- Each sort of illegal word of 30_encoding.md R81 at the ends of its range. -/
theorem witness_IllegalWordsRaiseIllegal_ranges :
    decode 0x000000 = none ∧ decode 0x060000 = none ∧ decode 0x0F0000 = none ∧ decode 0x130000 = none ∧
    decode 0xFF0000 = none ∧ decode 0x010001 = none ∧ decode 0x100100 = none ∧ decode 0x12FFFF = none ∧
    decode 0x020100 = none ∧ decode 0x11FF00 = none ∧ decode 0x050000 ≠ none ∧ decode 0x120000 ≠ none := by decide

theorem witness_OpcodeTableSelectsOneCommand :
    (∃ r ∈ opcodeTable, r.holds 0x04FFFF = true) ∧ decode 0x04FFFF = some (.scale 0xFFFF) ∧ decode 0x06FFFF = none := by
  decide

theorem witness_StepRunsTheDecodedCommand :
    (about checked 0x120000).inputs = [cmdSample 0x120000] ∧ (cmdSample 0x120000).rst = 0 ∧
    (cmdSample 0x120000).cmdValid = 1 ∧ decode (cmdSample 0x120000).cmd = some .fchk ∧
    0xFFFFFF < 2 ^ 24 ∧ decodeTableWord 24 0x110000 = some (.fpush 0) := by decide

/-- Every clause of the priority, each with a state and a sample of its own. -/
theorem witness_StepFollowsThePriority :
    ((faulted.presented [resetSample]).inputs = [resetSample] ∧ resetSample.rst = 1) ∧
    ((faulted.presented [idleSample]).inputs = [idleSample] ∧ idleSample.rst = 0 ∧ idleSample.cmdValid = 0) ∧
    ((about faulted 0x000000).fault = 1 ∧ (cmdSample 0x000000).rst = 0 ∧ (cmdSample 0x000000).cmdValid = 1) ∧
    ((about checked 0x120100).fault = 0 ∧ decode (cmdSample 0x120100).cmd = none) ∧
    ((about checked 0x1100AA).fault = 0 ∧ (about checked 0x1100AA).wp = 8 ∧
      decode (cmdSample 0x1100AA).cmd = some (.fpush 0xAA)) ∧
    ((about (loaded goodCells 7) 0x120000).fault = 0 ∧ (about (loaded goodCells 7) 0x120000).wp ≠ 8 ∧
      (about (loaded [] 9) 0x120000).wp ≠ 8 ∧ decode (cmdSample 0x120000).cmd = some .fchk) ∧
    ((about (loaded goodCells 7) 0x1100AA).fault = 0 ∧ (about (loaded goodCells 7) 0x1100AA).wp ≠ 8) := by decide

/-- The invariant holds in a state with a checked frame. -/
theorem witness_Inv_checked : Inv checked where
  memWf        := by decide
  wpRange      := by decide
  resLegal     := by decide
  scaledRange  := by decide
  humRange     := by decide
  tmpRange     := by decide
  noStale      := by decide
  okFrame      := by decide +kernel
  faultCode    := by decide
  checkedFull  := by decide

/-- So it does whatever samples are to come. -/
theorem witness_Inv_presented (ps : List PortSample) : Inv (checked.presented ps) :=
  let h := witness_Inv_checked
  ⟨h.memWf, h.wpRange, h.resLegal, h.scaledRange, h.humRange, h.tmpRange, h.noStale, h.okFrame, h.faultCode, h.checkedFull⟩

/-- The invariant, and a step of it, for EveryStepKeepsTheInvariant. -/
theorem witness_Inv_step : Inv (about checked 0x1100AA) ∧ ∃ t, step (about checked 0x1100AA) = .next t :=
  ⟨witness_Inv_presented _, _, rfl⟩

theorem witness_UnlistedEdgeIsIdle : checked.inputs = [] := by decide

theorem witness_ResetStepFromEveryState :
    (checked.presented [resetSample, idleSample]).inputs = [resetSample, idleSample] ∧ resetSample.rst = 1 := by decide

theorem witness_FaultedBlockIsFrozen :
    faulted.fault = 1 ∧ (about faulted 0x100000).inputs = [cmdSample 0x100000] ∧ (cmdSample 0x100000).rst = 0 := by decide

/-- Both clauses: a reset step, and a command. -/
theorem witness_OnlyResetClearsAFault :
    (faulted.presented [resetSample]).fault = 1 ∧
    (∃ t, step (faulted.presented [resetSample]) = .next t ∧ t.fault = 0) ∧
    ∃ t, step (about faulted 0x100000) = .next t ∧ t.fault = 1 :=
  ⟨by decide, ⟨_, rfl, by decide⟩, ⟨_, rfl, by decide⟩⟩

/-- Each of the three causes. -/
theorem witness_FaultEntryIsPrecise :
    (∃ t, step (about checked 0x000000) = .next t ∧ checked.fault = 0 ∧ t.fault = 1 ∧ t.fcode = 1) ∧
    (∃ t, step (about checked 0x110000) = .next t ∧ t.fault = 1 ∧ t.fcode = 2) ∧
    ∃ t, step (about State.reset 0x120000) = .next t ∧ t.fault = 1 ∧ t.fcode = 3 :=
  ⟨⟨_, rfl, by decide, by decide, by decide⟩, ⟨_, rfl, by decide, by decide⟩, ⟨_, rfl, by decide, by decide⟩⟩

/-- `FAULT = 0` and `FAULT = 1`, for the statements on CRCINIT, CRCBYTE, COMBINE, SCALE, DECODE, FCLR and the
pseudo-commands. -/
theorem witness_fault_bit : checked.fault = 0 ∧ faulted.fault = 1 := by decide

/-- CRCINIT, an idle step and a CRCBYTE presented; and, from reset, a COMBINE. -/
theorem witness_ChecksumSequenceLaw :
    (∃ t, checked.play [issue .crcinit, idleSample, issue (.crcbyte 0x03)] = .next t ∧ t.fault = 0) ∧
    (∀ p ∈ [idleSample, issue (.crcbyte 0x03)], p.rst = 0 ∧ p.command ≠ some .crcinit) ∧
    (∀ p ∈ [issue (.combine 1 2)], p.rst = 0 ∧ p.command ≠ some .crcinit ∧ p.crcByte = none) ∧
    ∃ t, State.reset.play [issue (.combine 1 2)] = .next t :=
  ⟨⟨_, rfl, by decide⟩, by decide, by decide, ⟨_, rfl⟩⟩

theorem witness_RawValuesAreUnsigned : (0x8000 : Word).getLsbD 15 = true ∧ (0xFFFF : Word).getLsbD 15 = true := by decide

theorem witness_ScaledPairIsExact : scale10 65535 = scale10 0xFFFF := by decide

/-- Each clause at its ends: `WP` 8; 0 and 7; 9 and 15. -/
theorem witness_Fpush :
    (loaded goodCells 8).fault = 0 ∧ (loaded goodCells 8).wp = 8 ∧
    (loaded [] 0).wp.toNat < 8 ∧ (loaded goodCells 7).wp.toNat < 8 ∧ (loaded [] 0).fault = 0 ∧
    8 < (loaded [] 9).wp.toNat ∧ 8 < (loaded [] 15).wp.toNat ∧ (loaded [] 15).fault = 0 := by decide

/-- Each clause of FCHK: `WP` 0, 7 and 9; a good frame; a bad one. -/
theorem witness_Fchk :
    (loaded [] 0).wp ≠ 8 ∧ (loaded goodCells 7).wp ≠ 8 ∧ (loaded [] 9).wp ≠ 8 ∧
    (loaded goodCells 8).fault = 0 ∧ (loaded goodCells 8).fb.read 0 = some 0x03 ∧ (loaded goodCells 8).fb.read 1 = some 0x04 ∧
    (loaded goodCells 8).fb.read 4 = some 0x00 ∧ (loaded goodCells 8).fb.read 7 = some 0x05 ∧
    (loaded swappedCells 8).fb.read 6 = some 0x05 ∧ (loaded swappedCells 8).fb.read 7 = some 0x50 := by decide

/-- The checksum clause of FCHK, met and not met. -/
theorem witness_Fchk_checksum :
    crc16 [0x03, 0x04, 0x02, 0x36, 0x00, 0xDB] = combine 0x05 0x50 ∧
    crc16 [0x03, 0x04, 0x02, 0x36, 0x00, 0xDB] ≠ combine 0x50 0x05 := by decide +kernel

/-- A check that faulted (`WP` 7) and one that ran (`WP` 8), each with a state that differs only in `ACC`. -/
theorem witness_FchkMayBeRepeated :
    nextHas (exec .fchk (loaded goodCells 8)) (fun t =>
      ({ checked with acc := 0x1234 } : State) ==
        { t with acc := 0x1234, raw := checked.raw, sq := checked.sq, sr := checked.sr, inputs := checked.inputs }) = true ∧
    nextHas (exec .fchk (loaded goodCells 7)) (fun t => t.fault == 1) = true := by decide +kernel

/-- An idle step, a CRC command, a decode command and FPUSH between; one frame byte. -/
theorem witness_LoadingLaw :
    checked.fault = 0 ∧
    (∀ p ∈ [idleSample, issue .crcinit, issue (.scale 566), issue (.fpush 0x03)],
      p.input = .idle ∨ ∃ i, p.input ≠ .reset ∧ p.command = some i ∧
        (isCrcCommand i = true ∨ isDecodeCommand i = true ∨ ∃ b, i = .fpush b)) ∧
    ([idleSample, issue .crcinit, issue (.scale 566), issue (.fpush 0x03)].filterMap PortSample.frameByte).length = 1 := by
  refine ⟨by decide, ?_, by decide⟩
  intro p hp
  simp only [List.mem_cons, List.not_mem_nil, or_false] at hp
  rcases hp with rfl | rfl | rfl | rfl
  · exact .inl rfl
  · exact .inr ⟨.crcinit, by decide, by decide, .inl rfl⟩
  · exact .inr ⟨.scale 566, by decide, by decide, .inr (.inl rfl)⟩
  · exact .inr ⟨.fpush 0x03, by decide, by decide, .inr (.inr ⟨0x03, rfl⟩)⟩

/-- A command of each unit that answers a next state, and a faulting one. -/
theorem witness_UnitsAreIndependent :
    (∃ t, exec (.crcbyte 0x03) checked = .next t) ∧ (∃ t, exec (.decode 0x02 0x36) checked = .next t) ∧
    (∃ t, exec .fclr checked = .next t ∧ t.fault = checked.fault) ∧
    ∃ t, exec (.fpush 0xAA) checked = .next t ∧ t.fault ≠ checked.fault :=
  ⟨⟨_, rfl⟩, ⟨_, rfl⟩, ⟨_, rfl, rfl⟩, ⟨_, rfl, by decide⟩⟩

/-- The law at its largest `k`, 8. -/
theorem witness_LoadingLaw_eight :
    (∀ p ∈ List.replicate 8 (issue (.fpush 0xFF)),
      p.input = .idle ∨ ∃ i, p.input ≠ .reset ∧ p.command = some i ∧
        (isCrcCommand i = true ∨ isDecodeCommand i = true ∨ ∃ b, i = .fpush b)) ∧
    ((List.replicate 8 (issue (.fpush 0xFF))).filterMap PortSample.frameByte).length = 8 := by
  refine ⟨?_, by decide⟩
  intro p hp
  rw [List.eq_of_mem_replicate hp]
  exact .inr ⟨.fpush 0xFF, by decide, by decide, .inr (.inr ⟨0xFF, rfl⟩)⟩

/-- Each command of the frame unit, FPUSH and FCHK with `WP` 8 and not 8. -/
theorem witness_FrameCommandsFrame :
    (∃ t, exec .fclr checked = .next t) ∧ (∃ t, exec (.fpush 0xAA) (loaded goodCells 8) = .next t) ∧
    (∃ t, exec (.fpush 0xAA) (loaded goodCells 7) = .next t) ∧ nextHas (exec .fchk (loaded goodCells 8)) (fun _ => true) = true ∧
    ∃ t, exec .fchk (loaded goodCells 7) = .next t :=
  ⟨⟨_, rfl⟩, ⟨_, rfl⟩, ⟨_, rfl⟩, by decide +kernel, ⟨_, rfl⟩⟩

theorem witness_OnlyFpushWritesACell :
    ∃ t, step (about State.reset 0x1100AA) = .next t ∧ (about State.reset 0x1100AA).sampled ≠ .reset ∧
      t.fb.read 0 ≠ State.reset.fb.read 0 :=
  ⟨_, rfl, by decide, by decide⟩

/-- Both clauses: a valid measurement shown, and none. -/
theorem witness_NoPartialExposure :
    (Inv (about checked 0x010000) ∧ ∃ t, step (about checked 0x010000) = .next t ∧ t.ports.measValid = 1) ∧
    (Inv (about checked 0x100000) ∧ ∃ t, step (about checked 0x100000) = .next t ∧ t.ports.measValid = 0) :=
  ⟨⟨witness_Inv_presented _, _, rfl, by decide⟩, ⟨witness_Inv_presented _, _, rfl, by decide⟩⟩

/-- Two states that differ in a cell above `WP`, and a step of one. -/
theorem witness_StaleBytesAreUnobservable :
    SameVisible (about (loaded [(0, 0x03)] 1) 0x110004) (about (loaded [(0, 0x03), (3, 0xEE)] 1) 0x110004) ∧
    ∃ t, step (about (loaded [(0, 0x03)] 1) 0x110004) = .next t := by
  refine ⟨⟨rfl, rfl, rfl, rfl, rfl, rfl, rfl, rfl, rfl, rfl, rfl, rfl, rfl, ?_⟩, _, rfl⟩
  intro i h _
  have : i = 0 := Nat.lt_one_iff.mp h
  subst this
  rfl

theorem witness_PortsShowTheRegisters :
    checked.res = 1 ∧ ({ checked with res := 2 } : State).res = 2 ∧ ({ checked with res := 0 } : State).res ≠ 1 := by decide

/-- The bus's answers of each clause, and delays at the ends of their windows. -/
theorem witness_HostRead :
    ∃ bus : BusAnswers, bus.commandOk = true ∧
      bus.response = some #v[0x03, 0x04, 0x02, 0x36, 0x00, 0xDB, 0x50, 0x05] ∧ State.reset.fault = 0 ∧
      (⟨800, 1500⟩ : Delays).allowed = true ∧ (⟨3000, 65535⟩ : Delays).allowed = true ∧
      (⟨799, 1500⟩ : Delays).allowed = false ∧ (⟨3001, 1500⟩ : Delays).allowed = false ∧
      (⟨800, 1499⟩ : Delays).allowed = false :=
  ⟨⟨false, true, some #v[0x03, 0x04, 0x02, 0x36, 0x00, 0xDB, 0x50, 0x05]⟩, rfl, rfl, by decide, by decide, by decide,
    by decide, by decide, by decide⟩

/-- A read that returns a measurement, with the shortest delays (SuccessfulReadBlocksLongEnough). -/
theorem witness_SuccessfulReadBlocksLongEnough :
    (⟨800, 1500⟩ : Delays).allowed = true ∧
    (hostRead ⟨800, 1500⟩ ⟨false, true, some #v[0x03, 0x04, 0x02, 0x36, 0x00, 0xDB, 0x50, 0x05]⟩ State.reset).result
      = .ok ⟨⟨56, 6⟩, ⟨21, 9⟩⟩ := by decide +kernel

theorem witness_HostReadAborts :
    (⟨false, false, none⟩ : BusAnswers).commandOk = false ∧ (⟨false, true, none⟩ : BusAnswers).commandOk = true ∧
    (⟨false, true, none⟩ : BusAnswers).response = none := ⟨rfl, rfl, rfl⟩

/-- The two outcomes of `validate` (PseudoCommandsEndStates, HostReadReturnsTheValidatedFrame). -/
theorem witness_validate :
    validate #v[0x03, 0x04, 0x00, 0x00, 0x00, 0x00, 0xF1, 0xE8] = .ok ⟨0, 0⟩ ⟨0, 0⟩ ∧
    validate #v[0x02, 0x04, 0x02, 0x36, 0x00, 0xDB, 0x50, 0x05] = .sensorErr := by decide +kernel

end Sys2Proof.Tests
end

section
/-! SUPPORT and proofs of the scope family (00_scope.md R10, R11): one step by what it samples, every command and every
step answers a next state. -/

namespace Sys2Proof.Machine

/-! ### One step, by what it samples -/

theorem step_reset {s : State} (h : s.sampled = .reset) : step s = .next s.consume.resetStep := by
  simp only [step, h]

theorem step_idle {s : State} (h : s.sampled = .idle) : step s = .next s.consume := by
  simp only [step, h]

theorem step_command {s : State} {w : CmdWord} {i : Instr} (h : s.sampled = .cmd w) (hd : decode w = some i) :
    step s = exec i s.consume := by
  simp only [step, h, hd]

theorem step_illegal {s : State} {w : CmdWord} (h : s.sampled = .cmd w) (hd : decode w = none) :
    step s = raiseIllegal s.consume := by
  simp only [step, h, hd]

/-- With no sample listed there is none to take off. -/
theorem State.consume_nil {s : State} (h : s.inputs = []) : s.consume = s := by
  show { s with inputs := s.inputs.tail } = s
  rw [h, List.tail_nil, ← h]

/-- A 24-bit table word always fits the port. -/
theorem decodeTableWord_port (w : Nat) : decodeTableWord 24 w = decode (BitVec.ofNat 24 (tableValue 24 w)) :=
  if_pos (Nat.mod_lt w (by decide))

/-! ### Answering a next state -/

/-- A guarded meaning answers a next state if its running part does: the frozen state is one itself. -/
theorem unlessFaulted_answers (s : State) {r : Result} (h : ∃ t, r = .next t) : ∃ t, unlessFaulted s r = .next t := by
  by_cases hf : s.fault = 1
  · exact ⟨s, unlessFaulted_faulted hf r⟩
  · rwa [unlessFaulted_running (bit_ne_one.mp hf)]

/-- A precondition with a next state on either side of it answers a next state. -/
theorem ite_answers (c : Prop) [Decidable c] (s t : State) :
    ∃ u, (if c then .next s else .next t : Result) = .next u := by
  by_cases h : c
  · exact ⟨s, if_pos h⟩
  · exact ⟨t, if_neg h⟩

theorem raiseIllegal_answers (s : State) : ∃ t, raiseIllegal s = .next t :=
  unlessFaulted_answers s ⟨_, rfl⟩

/-- FPUSH answers at every `WP`, also past the buffer (42_frame_check.md R133). -/
theorem execFpush_answers (b : Byte) (s : State) : ∃ t, execFpush b s = .next t :=
  unlessFaulted_answers s (ite_answers _ _ _)

/-- FCHK answers whether or not the frame is complete (42_frame_check.md R135). -/
theorem execFchk_answers (s : State) : ∃ t, execFchk s = .next t :=
  unlessFaulted_answers s (ite_answers _ _ _)

theorem exec_answers (i : Instr) (s : State) : ∃ t, exec i s = .next t := by
  cases i with
  | fpush b => exact execFpush_answers b s
  | fchk => exact execFchk_answers s
  | crcinit => exact unlessFaulted_answers s ⟨_, rfl⟩
  | crcbyte b => exact unlessFaulted_answers s ⟨_, rfl⟩
  | combine h l => exact unlessFaulted_answers s ⟨_, rfl⟩
  | scale v => exact unlessFaulted_answers s ⟨_, rfl⟩
  | decode h l => exact unlessFaulted_answers s ⟨_, rfl⟩
  | fclr => exact unlessFaulted_answers s ⟨_, rfl⟩

theorem step_answers (s : State) : ∃ t, step s = .next t := by
  cases hs : s.sampled with
  | reset => exact ⟨_, step_reset hs⟩
  | idle => exact ⟨_, step_idle hs⟩
  | cmd w =>
    cases hd : decode w with
    | none => rw [step_illegal hs hd]; exact raiseIllegal_answers s.consume
    | some i => rw [step_command hs hd]; exact exec_answers i s.consume

/-! ### The obligations -/

/-- Settles O7: `step` and `exec` by cases on the sampled input and the command, over every state. -/
theorem everyStepAnswersANextState : Obligations.EveryStepAnswersANextState :=
  fun s => ⟨step_answers s, fun i => exec_answers i s⟩

/-- Settles O5: the listed sample is the command sampled, and a table word's sample is the one `withFetchWord` lists. -/
theorem stepRunsTheDecodedCommand : Obligations.StepRunsTheDecodedCommand := by
  constructor
  · intro s p rest i hin hrst hvalid hdec
    have hs : s.sampled = .cmd p.cmd := (State.sampled_cons hin).trans (PortSample.input_cmd hrst hvalid)
    rw [step_command hs hdec, State.consume_cons hin]
  · intro s w i _ hdec
    rw [decodeTableWord_port] at hdec
    exact step_command (State.sampled_presented s (cmdSample _) []) hdec

/-- Settles O8: an unlisted edge samples idle, and the empty list stays empty. -/
theorem unlistedEdgeIsIdle : Obligations.UnlistedEdgeIsIdle := by
  intro s hin
  rw [step_idle (State.sampled_nil hin), State.consume_nil hin]

end Sys2Proof.Machine
end

section
/-! SUPPORT and proofs of the state family (10_state.md R30 to R35, R41): the reset values, the ports, the units of R32,
and the invariant of R31, which holds at reset and which every step keeps. -/

namespace Sys2Proof.Machine

open Sys2Proof.Safety

/-! ### Reset values and ports -/

/-- Every cell of `FB` reads 0 after reset (10_state.md R35). -/
theorem Memory.read_reset {i : Nat} (hi : i < 8) : State.reset.fb.read i = some 0x00 :=
  Memory.read_cell _ hi

/-- Settles O10: the registers by definition, the cells by `Memory.read_reset`. -/
theorem resetStateValues : Obligations.ResetStateValues :=
  ⟨rfl, rfl, rfl, rfl, fun _ => Memory.read_reset, rfl, rfl, rfl, rfl, rfl, rfl, rfl, rfl, rfl⟩

/-! The fields of `STATUS` (10_state.md R30): the registers joined on to the right of a field are skipped one by one. -/

theorem State.status_wp (s : State) : s.status.extractLsb' 0 4 = s.wp :=
  BitVec.extractLsb'_append_eq_right (a := (0 : BitVec 7) ++ s.fault ++ s.fcode ++ s.res)

theorem State.status_res (s : State) : s.status.extractLsb' 4 2 = s.res :=
  calc s.status.extractLsb' 4 2
    _ = ((0 : BitVec 7) ++ s.fault ++ s.fcode ++ s.res).extractLsb' 0 2 :=
        BitVec.extractLsb'_append_eq_of_le (by decide)
    _ = s.res := BitVec.extractLsb'_append_eq_right

theorem State.status_fcode (s : State) : s.status.extractLsb' 6 2 = s.fcode :=
  calc s.status.extractLsb' 6 2
    _ = ((0 : BitVec 7) ++ s.fault ++ s.fcode ++ s.res).extractLsb' 2 2 :=
        BitVec.extractLsb'_append_eq_of_le (by decide)
    _ = ((0 : BitVec 7) ++ s.fault ++ s.fcode).extractLsb' 0 2 := BitVec.extractLsb'_append_eq_of_le (by decide)
    _ = s.fcode := BitVec.extractLsb'_append_eq_right

/-- Above `FCODE` stand `FAULT` and the zeros. -/
theorem State.status_above_fcode (s : State) (k n : Nat) :
    s.status.extractLsb' (8 + k) n = ((0 : BitVec 7) ++ s.fault).extractLsb' k n :=
  calc s.status.extractLsb' (8 + k) n
    _ = ((0 : BitVec 7) ++ s.fault ++ s.fcode ++ s.res).extractLsb' (8 + k - 4) n :=
        BitVec.extractLsb'_append_eq_of_le (by omega)
    _ = ((0 : BitVec 7) ++ s.fault ++ s.fcode).extractLsb' (8 + k - 4 - 2) n :=
        BitVec.extractLsb'_append_eq_of_le (by omega)
    _ = ((0 : BitVec 7) ++ s.fault).extractLsb' (8 + k - 4 - 2 - 2) n :=
        BitVec.extractLsb'_append_eq_of_le (by omega)
    _ = ((0 : BitVec 7) ++ s.fault).extractLsb' k n := by rw [show 8 + k - 4 - 2 - 2 = k by omega]

theorem State.status_fault (s : State) : s.status.extractLsb' 8 1 = s.fault :=
  (s.status_above_fcode 0 1).trans BitVec.extractLsb'_append_eq_right

theorem State.status_zero (s : State) : s.status.extractLsb' 9 7 = (0 : BitVec 7) :=
  (s.status_above_fcode 1 7).trans BitVec.extractLsb'_append_eq_left

/-- Settles O45: port `status` is the composite, its fields as above. -/
theorem statusWordFields : Obligations.StatusWordFields :=
  ⟨fun s => ⟨s.status_wp, s.status_res, s.status_fcode, s.status_fault, s.status_zero⟩, rfl⟩

theorem State.measValid_ok {s : State} (h : s.res = Res.ok) : s.measValid = 1 := if_pos h

theorem State.measValid_not_ok {s : State} (h : s.res ≠ Res.ok) : s.measValid = 0 := if_neg h

theorem State.sensorErr_failed {s : State} (h : s.res = Res.sensorErr) : s.sensorErr = 1 := if_pos h

theorem State.sensorErr_not_failed {s : State} (h : s.res ≠ Res.sensorErr) : s.sensorErr = 0 := if_neg h

/-- Settles O46: the two ports computed from `RES` by whether it has their value, the others by definition. -/
theorem portsShowTheRegisters : Obligations.PortsShowTheRegisters :=
  fun _ => ⟨rfl, rfl, rfl, rfl, rfl, rfl, rfl, rfl, State.measValid_ok, State.measValid_not_ok,
    State.sensorErr_failed, State.sensorErr_not_failed, rfl⟩

/-! ### What the commands of one unit can do (10_state.md R32) -/

/-- `s` with the registers and the buffer of the frame unit as `t` has them. -/
def State.withFrameUnitOf (s t : State) : State :=
  { s with fb := t.fb, wp := t.wp, res := t.res, mhI := t.mhI, mhT := t.mhT, mtI := t.mtI, mtT := t.mtT }

/-- A check's record is in the frame unit. -/
theorem State.recordCheck_eq_withFrameUnitOf (s : State) (c : CheckResult) :
    s.recordCheck c = s.withFrameUnitOf (s.recordCheck c) := by
  cases c <;> rfl

theorem isCrc_or_isDecode_or_isFrame (i : Instr) :
    isCrcCommand i = true ∨ isDecodeCommand i = true ∨ isFrameCommand i = true := by
  cases i with
  | crcinit | crcbyte => exact .inl rfl
  | combine | scale | decode => exact .inr (.inl rfl)
  | fclr | fpush | fchk => exact .inr (.inr rfl)

section
variable {i : Instr} {s t : State}

/-- A CRC command writes `ACC` or is frozen. -/
theorem exec_crcCommand_next (hi : isCrcCommand i = true) (h : exec i s = .next t) : ∃ a, t = s.setAcc a := by
  cases i with
  | crcinit =>
    obtain ⟨-, rfl⟩ | ⟨-, rfl⟩ := execCrcinit_next h
    · exact ⟨t.acc, rfl⟩
    · exact ⟨_, rfl⟩
  | crcbyte b =>
    obtain ⟨-, rfl⟩ | ⟨-, rfl⟩ := execCrcbyte_next h
    · exact ⟨t.acc, rfl⟩
    · exact ⟨_, rfl⟩
  | _ => cases hi

/-- A decode command writes `RAW` and the scaled pair, or keeps either of them. -/
theorem exec_decodeCommand_next (hi : isDecodeCommand i = true) (h : exec i s = .next t) :
    ∃ r p, t = (s.setRaw r).setScaled p ∧ (p = ⟨s.sq, s.sr⟩ ∨ ∃ v, p = scale10 v) := by
  cases i with
  | combine x y =>
    obtain ⟨-, rfl⟩ | ⟨-, rfl⟩ := execCombine_next h
    · exact ⟨t.raw, _, rfl, .inl rfl⟩
    · exact ⟨combine x y, _, rfl, .inl rfl⟩
  | scale v =>
    obtain ⟨-, rfl⟩ | ⟨-, rfl⟩ := execScale_next h
    · exact ⟨t.raw, _, rfl, .inl rfl⟩
    · exact ⟨s.raw, _, rfl, .inr ⟨v, rfl⟩⟩
  | decode x y =>
    obtain ⟨-, rfl⟩ | ⟨-, rfl⟩ := execDecode_next h
    · exact ⟨t.raw, _, rfl, .inl rfl⟩
    · exact ⟨combine x y, _, rfl, .inr ⟨_, rfl⟩⟩
  | _ => cases hi

/-- A frame command raises a fault on a running block, or writes in its own unit. -/
theorem exec_frameCommand_next (hi : isFrameCommand i = true) (h : exec i s = .next t) :
    (s.fault = 0 ∧ ∃ c, t = s.raiseFault c) ∨ t = s.withFrameUnitOf t := by
  cases i with
  | fclr =>
    obtain ⟨-, rfl⟩ | ⟨-, rfl⟩ := execFclr_next h
    · exact .inr rfl
    · exact .inr rfl
  | fpush b =>
    obtain ⟨-, rfl⟩ | ⟨h0, -, rfl⟩ | ⟨-, -, rfl⟩ := execFpush_next h
    · exact .inr rfl
    · exact .inl ⟨h0, _, rfl⟩
    · rw [State.storeCell_eq]
      exact .inr rfl
  | fchk =>
    obtain ⟨-, rfl⟩ | ⟨h0, -, rfl⟩ | ⟨-, -, rfl⟩ := execFchk_next h
    · exact .inr rfl
    · exact .inl ⟨h0, _, rfl⟩
    · exact .inr (State.recordCheck_eq_withFrameUnitOf s _)
  | _ => cases hi

/-- A frame command that leaves `FAULT` writes in its own unit: to raise a fault is to change `FAULT`. -/
theorem exec_frameCommand_no_fault (hi : isFrameCommand i = true) (h : exec i s = .next t) (hf : t.fault = s.fault) :
    t = s.withFrameUnitOf t := by
  obtain ⟨h0, c, rfl⟩ | ht := exec_frameCommand_next hi h
  · rw [State.raiseFault_fault, h0] at hf
    exact absurd hf (by decide)
  · exact ht

/-- A command that changes `FAULT` raises a fault and does nothing else (60_exceptions.md R185). -/
theorem exec_fault_changed (h : exec i s = .next t) (hf : t.fault ≠ s.fault) : ∃ c, t = s.raiseFault c := by
  obtain hi | hi | hi := isCrc_or_isDecode_or_isFrame i
  · obtain ⟨a, rfl⟩ := exec_crcCommand_next hi h
    exact absurd rfl hf
  · obtain ⟨r, p, rfl, -⟩ := exec_decodeCommand_next hi h
    exact absurd rfl hf
  · obtain ⟨-, hc⟩ | ht := exec_frameCommand_next hi h
    · exact hc
    · exact absurd (congrArg State.fault ht) hf

end

/-- Settles O37: unit by unit, from what the commands of each unit can do. -/
theorem unitsAreIndependent : Obligations.UnitsAreIndependent := by
  intro i s t h
  refine ⟨fun hi => ?crc, fun hi => ?decode, fun hi hf => ?frame, fun hf => ?fault⟩
  case crc =>
    obtain ⟨a, rfl⟩ := exec_crcCommand_next hi h
    exact ⟨rfl, fun _ => rfl⟩
  case decode =>
    obtain ⟨r, p, rfl, -⟩ := exec_decodeCommand_next hi h
    exact ⟨rfl, fun _ => rfl⟩
  case frame => exact exec_frameCommand_no_fault hi h hf
  case fault =>
    obtain ⟨c, rfl⟩ := exec_fault_changed h hf
    rfl

/-! ### Arithmetic and frames that the invariant speaks of -/

/-- `combine` is concatenation, the high byte first (41_decode_scale.md R110). -/
theorem combine_eq_append (h l : Byte) : combine h l = h ++ l :=
  (BitVec.setWidth_append_eq_shiftLeft_setWidth_or (w'' := 16)).symm.trans (BitVec.setWidth_eq (h ++ l))

/-- A scaled pair is in range (41_decode_scale.md R112 (c)). -/
theorem scale10_inRange (v : Word) : InRange (scale10 v) := by
  have hv : v.toNat < 65536 := v.isLt
  constructor
  · show (BitVec.ofNat 4 (v.toNat % 10)).toNat ≤ 9
    rw [BitVec.toNat_ofNat]
    omega
  · show (BitVec.ofNat 13 (v.toNat / 10)).toNat ≤ 6553
    rw [BitVec.toNat_ofNat]
    omega

theorem zeroScaled_inRange : InRange zeroScaled := by decide

theorem Res.none_ne_ok : Res.none ≠ Res.ok := by decide

theorem Res.sensorErr_ne_ok : Res.sensorErr ≠ Res.ok := by decide

/-- The header, the checksum and the measurement of a buffer whose check gave `hum` and `tmp` (10_state.md R31 (e)). -/
theorem validate_frame_ok {m : Memory} {hum tmp : Scaled} (h : validate m.frame = .ok hum tmp) :
    m.lookup 0 = 0x03 ∧ m.lookup 1 = 0x04 ∧
    crc16 [m.lookup 0, m.lookup 1, m.lookup 2, m.lookup 3, m.lookup 4, m.lookup 5] = m.lookup 7 ++ m.lookup 6 ∧
    hum = scale10 (combine (m.lookup 2) (m.lookup 3)) ∧ tmp = scale10 (combine (m.lookup 4) (m.lookup 5)) := by
  obtain ⟨hhead, hsum, hhum, htmp⟩ := validate_ok h
  rw [headerOk_frame, Bool.and_eq_true, beq_iff_eq, beq_iff_eq] at hhead
  rw [checksumOk_frame, beq_iff_eq, combine_eq_append] at hsum
  exact ⟨hhead.1, hhead.2, hsum, hhum, htmp⟩

/-- A pointer below 8 stays at most 8. -/
theorem nextPointer_le {wp : BitVec 4} (b : Byte) (h : wp.toNat < 8) : (nextPointer wp b).toNat ≤ 8 := by
  have h15 : wp ≠ 15 := fun h15 => absurd h (by rw [h15]; decide)
  rw [nextPointer_fits b h15]
  bv_omega

end Sys2Proof.Machine

/-! ### The invariant, update by update (10_state.md R31) -/

namespace Sys2Proof.Safety

open Sys2Proof.Machine

/-- The invariant holds in `reset_state`. -/
theorem Inv.reset : Inv State.reset where
  memWf       := Memory.wf_reset
  wpRange     := by decide
  resLegal    := .inl rfl
  scaledRange := zeroScaled_inRange
  humRange    := zeroScaled_inRange
  tmpRange    := zeroScaled_inRange
  noStale     := fun _ => ⟨rfl, rfl, rfl, rfl⟩
  okFrame     := fun h => absurd h Res.none_ne_ok
  faultCode   := ⟨fun _ => rfl, fun _ => rfl⟩
  checkedFull := fun h => absurd rfl h

section
variable {s : State}

/-- The invariant reads neither `ACC` nor `RAW` nor the samples to come. -/
theorem Inv.of_unread (hs : Inv s) (a r : Word) (ps : List PortSample) :
    Inv { s with acc := a, raw := r, inputs := ps } :=
  { hs with }

theorem Inv.consume (hs : Inv s) : Inv s.consume := hs.of_unread s.acc s.raw s.inputs.tail

theorem Inv.presented (hs : Inv s) (ps : List PortSample) : Inv (s.presented ps) :=
  hs.of_unread s.acc s.raw (ps ++ s.inputs)

theorem Inv.setAcc (hs : Inv s) (a : Word) : Inv (s.setAcc a) := hs.of_unread a s.raw s.inputs

theorem Inv.setRaw (hs : Inv s) (r : Word) : Inv (s.setRaw r) := hs.of_unread s.acc r s.inputs

theorem Inv.setScaled (hs : Inv s) {p : Scaled} (hp : InRange p) : Inv (s.setScaled p) :=
  { hs with scaledRange := hp }

theorem Inv.raiseFault (hs : Inv s) {c : BitVec 2} (hc : c ≠ 0) : Inv (s.raiseFault c) :=
  { hs with faultCode := ⟨fun h => absurd rfl (bit_ne_one.mpr h), fun h => absurd h hc⟩ }

/-- The reset step differs from `reset_state` in the samples to come. -/
theorem Inv.resetStep (s : State) : Inv s.resetStep := Inv.reset.of_unread _ _ s.inputs

/-- FCLR: no result and no measurement needs no frame. -/
theorem Inv.clearFrame (hs : Inv s) : Inv ((s.setWp 0).setCheck Res.none zeroScaled zeroScaled) :=
  { hs with
    wpRange := Nat.zero_le _
    resLegal := .inl rfl
    humRange := zeroScaled_inRange
    tmpRange := zeroScaled_inRange
    noStale := fun _ => ⟨rfl, rfl, rfl, rfl⟩
    okFrame := fun h => absurd h Res.none_ne_ok
    checkedFull := fun h => absurd rfl h }

/-- FPUSH into a buffer that is not full: there is no result yet, so the new byte voids none. -/
theorem Inv.pushByte (hs : Inv s) (hw : s.wp ≠ 8) (b : Byte) :
    Inv ((s.storeCell s.wp.toNat b).setWp (nextPointer s.wp b)) := by
  have hlt : s.wp.toNat < 8 := by
    have := hs.wpRange
    bv_omega
  have hnone : s.res = Res.none := Classical.not_not.mp fun h => hw (hs.checkedFull h)
  rw [State.storeCell_cell s b hlt]
  exact { hs with
    memWf := Memory.wf_put b hs.memWf hlt
    wpRange := nextPointer_le b hlt
    okFrame := fun (h : s.res = Res.ok) => absurd (hnone.symm.trans h) Res.none_ne_ok
    checkedFull := fun h => absurd hnone h }

/-- FCHK of a full buffer: `OK` is recorded only for a frame that `validate` accepts, with its measurement. -/
theorem Inv.recordFrameCheck (hs : Inv s) (hw : s.wp = 8) : Inv (s.recordCheck (validate s.fb.frame)) := by
  cases hv : validate s.fb.frame with
  | sensorErr =>
    exact { hs with
      resLegal := .inr (.inr rfl)
      humRange := zeroScaled_inRange
      tmpRange := zeroScaled_inRange
      noStale := fun _ => ⟨rfl, rfl, rfl, rfl⟩
      okFrame := fun h => absurd h Res.sensorErr_ne_ok
      checkedFull := fun _ => hw }
  | ok hum tmp =>
    obtain ⟨h0, h1, hsum, hhum, htmp⟩ := validate_frame_ok hv
    exact { hs with
      resLegal := .inr (.inl rfl)
      humRange := by rw [hhum]; exact scale10_inRange _
      tmpRange := by rw [htmp]; exact scale10_inRange _
      noStale := fun h => absurd rfl h
      okFrame := fun _ => ⟨hw, h0, h1, hsum, hhum, htmp⟩
      checkedFull := fun _ => hw }

/-! ### Every step keeps the invariant -/

variable {t : State}

theorem Inv.raiseIllegal (hs : Inv s) (h : raiseIllegal s = .next t) : Inv t := by
  obtain ⟨-, rfl⟩ | ⟨-, rfl⟩ := raiseIllegal_next h
  · exact hs
  · exact hs.raiseFault (by decide)

theorem Inv.decodeCommand {i : Instr} (hs : Inv s) (hi : isDecodeCommand i = true) (h : Machine.exec i s = .next t) :
    Inv t := by
  obtain ⟨r, p, rfl, rfl | ⟨v, rfl⟩⟩ := exec_decodeCommand_next hi h
  · exact (hs.setRaw r).setScaled hs.scaledRange
  · exact (hs.setRaw r).setScaled (scale10_inRange v)

/-- Every command that answers a next state keeps the invariant. -/
theorem Inv.exec {i : Instr} (hs : Inv s) (h : Machine.exec i s = .next t) : Inv t := by
  obtain hi | hi | hi := isCrc_or_isDecode_or_isFrame i
  · obtain ⟨a, rfl⟩ := exec_crcCommand_next hi h
    exact hs.setAcc a
  · exact hs.decodeCommand hi h
  · cases i with
    | fclr =>
      obtain ⟨-, rfl⟩ | ⟨-, rfl⟩ := execFclr_next h
      · exact hs
      · exact hs.clearFrame
    | fpush b =>
      obtain ⟨-, rfl⟩ | ⟨-, -, rfl⟩ | ⟨-, hw, rfl⟩ := execFpush_next h
      · exact hs
      · exact hs.raiseFault (by decide)
      · exact hs.pushByte hw b
    | fchk =>
      obtain ⟨-, rfl⟩ | ⟨-, -, rfl⟩ | ⟨-, hw, rfl⟩ := execFchk_next h
      · exact hs
      · exact hs.raiseFault (by decide)
      · exact hs.recordFrameCheck hw
    | _ => cases hi

theorem Inv.step (hs : Inv s) (h : Machine.step s = .next t) : Inv t := by
  obtain ⟨-, rfl⟩ | ⟨-, rfl⟩ | ⟨w, -, -, h⟩ | ⟨w, i, -, -, h⟩ := step_cases h
  · exact Inv.resetStep s.consume
  · exact hs.consume
  · exact hs.consume.raiseIllegal h
  · exact hs.consume.exec h

/-- One presented sample leads to a next state, with the invariant. -/
theorem Inv.edge (hs : Inv s) (p : PortSample) : ∃ t, s.edge p = .next t ∧ Inv t := by
  obtain ⟨t, ht⟩ := step_answers (s.presented [p])
  exact ⟨t, ht, (hs.presented [p]).step ht⟩

/-- So does every finite sequence of them (00_scope.md R11). -/
theorem Inv.play (hs : Inv s) (ps : List PortSample) : ∃ t, s.play ps = .next t ∧ Inv t := by
  induction ps generalizing s with
  | nil => exact ⟨s, State.play_nil s, hs⟩
  | cons p ps ih =>
    obtain ⟨u, hu, hinv⟩ := hs.edge p
    rw [State.play_cons, hu]
    exact ih hinv

/-- A valid measurement belongs to the frame in the buffer, as the cells read (10_state.md R31 (e)). -/
theorem Inv.ok_reads (hs : Inv s) (h : s.res = Res.ok) :
    s.wp = 8 ∧ ∃ f2 f3 f4 f5 f6 f7 : Byte,
      s.fb.read 0 = some 0x03 ∧ s.fb.read 1 = some 0x04 ∧ s.fb.read 2 = some f2 ∧ s.fb.read 3 = some f3 ∧
      s.fb.read 4 = some f4 ∧ s.fb.read 5 = some f5 ∧ s.fb.read 6 = some f6 ∧ s.fb.read 7 = some f7 ∧
      crc16 [0x03, 0x04, f2, f3, f4, f5] = f7 ++ f6 ∧
      ⟨s.mhI, s.mhT⟩ = scale10 (combine f2 f3) ∧ ⟨s.mtI, s.mtT⟩ = scale10 (combine f4 f5) := by
  obtain ⟨hw, h0, h1, hsum, hhum, htmp⟩ := hs.okFrame h
  rw [h0, h1] at hsum
  exact ⟨hw, _, _, _, _, _, _, congrArg some h0, congrArg some h1, rfl, rfl, rfl, rfl, rfl, rfl, hsum, hhum, htmp⟩

end

/-! ### The obligations -/

/-- Settles O40. -/
theorem invariantHoldsAtReset : Obligations.InvariantHoldsAtReset := Inv.reset

/-- Settles O41: by cases on what one step can do, from the invariant of each update. -/
theorem everyStepKeepsTheInvariant : Obligations.EveryStepKeepsTheInvariant :=
  fun _ _ hs h => hs.step h

/-- Settles O42: the invariant from reset along the sequence, its clauses read off. -/
theorem invariantOfEveryInputSequence : Obligations.InvariantOfEveryInputSequence := by
  intro ps
  obtain ⟨t, hplay, ht⟩ := Inv.reset.play ps
  obtain ⟨hsr, hsq⟩ := ht.scaledRange
  obtain ⟨hmhT, hmhI⟩ := ht.humRange
  obtain ⟨hmtT, hmtI⟩ := ht.tmpRange
  exact ⟨t, hplay, ht.wpRange, ht.resLegal, ⟨hsr, hsq, hmhT, hmtT, hmhI, hmtI⟩, ht.noStale, ht.ok_reads,
    ht.faultCode, ht.checkedFull⟩

end Sys2Proof.Safety
end

section
/-! SUPPORT and proofs of the memory family (20_memory.md R51 to R53): which cells a step can write, and that the cells at
`WP` and above reach no port and no later state, as a simulation in `SameVisible`. -/

namespace Sys2Proof.Machine

/-! ### Which cells a step can write (20_memory.md R51) -/

section
variable {i : Instr} {s t : State} {a : Nat}

/-- FPUSH writes no cell but the one at the old `WP`. -/
theorem execFpush_read_other {b : Byte} (h : execFpush b s = .next t) (ha : a ≠ s.wp.toNat) :
    t.fb.read a = s.fb.read a := by
  obtain ⟨-, rfl⟩ | ⟨-, -, rfl⟩ | ⟨-, -, rfl⟩ := execFpush_next h
  · rfl
  · rfl
  · exact State.storeCell_read_other s b ha

/-- No command but FPUSH writes the frame buffer. -/
theorem exec_fb_of_ne_fpush (h : exec i s = .next t) (hi : ∀ b, i ≠ .fpush b) : t.fb = s.fb := by
  obtain hu | hu | hu := isCrc_or_isDecode_or_isFrame i
  · obtain ⟨v, rfl⟩ := exec_crcCommand_next hu h
    rfl
  · obtain ⟨r, p, rfl, -⟩ := exec_decodeCommand_next hu h
    rfl
  · cases i with
    | fclr => obtain ⟨-, rfl⟩ | ⟨-, rfl⟩ := execFclr_next h <;> rfl
    | fpush b => exact absurd rfl (hi b)
    | fchk =>
      obtain ⟨-, rfl⟩ | ⟨-, -, rfl⟩ | ⟨-, -, rfl⟩ := execFchk_next h
      · rfl
      · rfl
      · exact State.recordCheck_fb s _
    | _ => cases hu

/-- An illegal word writes no cell. -/
theorem raiseIllegal_fb (h : raiseIllegal s = .next t) : t.fb = s.fb := by
  obtain ⟨-, rfl⟩ | ⟨-, rfl⟩ := raiseIllegal_next h <;> rfl

/-- A command under which a cell changed is FPUSH, and the cell the one at `WP`. -/
theorem exec_read_changed (h : exec i s = .next t) (ha : t.fb.read a ≠ s.fb.read a) :
    a = s.wp.toNat ∧ ∃ b, i = .fpush b := by
  by_cases hi : ∃ b, i = .fpush b
  · obtain ⟨b, rfl⟩ := hi
    exact ⟨Classical.not_not.mp fun hne => ha (execFpush_read_other h hne), b, rfl⟩
  · rw [exec_fb_of_ne_fpush h fun b hb => hi ⟨b, hb⟩] at ha
    exact absurd rfl ha

end

/-- Settles O39: of what one step can do, only a reset and a command touch the buffer, and of the commands only FPUSH. -/
theorem onlyFpushWritesACell : Obligations.OnlyFpushWritesACell := by
  intro s t a h hr ha
  obtain ⟨hs, -⟩ | ⟨-, rfl⟩ | ⟨w, -, -, hx⟩ | ⟨w, i, hs, hd, hx⟩ := step_cases h
  · exact absurd hs hr
  · exact absurd rfl ha
  · exact absurd (congrArg (Memory.read · a) (raiseIllegal_fb hx)) ha
  · obtain ⟨hwp, b, rfl⟩ := exec_read_changed hx ha
    exact ⟨hwp, w, b, hs, hd⟩

/-! ### The cells at and below the pointer after FPUSH -/

/-- A cell below the new pointer is the one just pushed or lies below the old pointer. -/
theorem eq_or_lt_of_lt_nextPointer {wp : BitVec 4} {b : Byte} {i : Nat} (h : i < (nextPointer wp b).toNat)
    (hi : i < 8) : i = wp.toNat ∨ i < wp.toNat := by
  by_cases hw : wp = 15
  · subst hw
    exact .inr (Nat.lt_trans hi (by decide))
  · rw [nextPointer_fits b hw] at h
    have hadd : (wp + 1).toNat ≤ wp.toNat + 1 := Nat.mod_le _ _
    omega

/-- What a store into a cell leaves there (42_frame_check.md R133). -/
theorem State.storeCell_read_same (s : State) {i : Nat} (b : Byte) (h : i < Config.frameLen) :
    (s.storeCell i b).fb.read i = some b := by
  rw [State.storeCell_cell s b h]
  exact Memory.read_put_same s.fb b h

end Sys2Proof.Machine

/-! ### States that agree but in stale cells (20_memory.md R53) -/

namespace Sys2Proof.Safety

open Sys2Proof.Machine

/-- Every next state that `r` answers is matched by one that `q` answers. -/
def MatchedBy (r q : Result) : Prop := ∀ s', r = .next s' → ∃ t', q = .next t' ∧ SameVisible s' t'

section
variable {s t : State}

/-! `SameVisible`, update by update. -/

/-- All that two such states can differ in: the buffer. -/
theorem SameVisible.eq_withBuffer (hs : SameVisible s t) : t = { s with fb := t.fb } := by
  cases t
  rw [State.mk.injEq]
  exact ⟨hs.acc, hs.raw, hs.sq, hs.sr, rfl, hs.wp, hs.res, hs.mhI, hs.mhT, hs.mtI, hs.mtT, hs.fault, hs.fcode, hs.inputs⟩

/-- `FB` is on no port (10_state.md R41). -/
theorem SameVisible.ports (hs : SameVisible s t) : t.ports = s.ports :=
  calc t.ports
    _ = ({ s with fb := t.fb } : State).ports := congrArg State.ports hs.eq_withBuffer
    _ = s.ports := rfl

theorem SameVisible.sampled (hs : SameVisible s t) : t.sampled = s.sampled :=
  calc t.sampled
    _ = ({ s with fb := t.fb } : State).sampled := congrArg State.sampled hs.eq_withBuffer
    _ = s.sampled := rfl

theorem SameVisible.consume (hs : SameVisible s t) : SameVisible s.consume t.consume :=
  { hs with inputs := congrArg List.tail hs.inputs }

/-- A reset clears every cell, the stale ones too. -/
theorem SameVisible.resetStep (hs : SameVisible s t) : SameVisible s.resetStep t.resetStep :=
  ⟨rfl, rfl, rfl, rfl, rfl, rfl, rfl, rfl, rfl, rfl, rfl, rfl, hs.inputs, fun _ _ _ => rfl⟩

theorem SameVisible.setAcc (hs : SameVisible s t) (v : Word) : SameVisible (s.setAcc v) (t.setAcc v) :=
  { hs with acc := rfl }

theorem SameVisible.setRaw (hs : SameVisible s t) (v : Word) : SameVisible (s.setRaw v) (t.setRaw v) :=
  { hs with raw := rfl }

theorem SameVisible.setScaled (hs : SameVisible s t) (p : Scaled) : SameVisible (s.setScaled p) (t.setScaled p) :=
  { hs with sq := rfl, sr := rfl }

theorem SameVisible.raiseFault (hs : SameVisible s t) (c : BitVec 2) : SameVisible (s.raiseFault c) (t.raiseFault c) :=
  { hs with fault := rfl, fcode := rfl }

theorem SameVisible.setCheck (hs : SameVisible s t) (r : BitVec 2) (hum tmp : Scaled) :
    SameVisible (s.setCheck r hum tmp) (t.setCheck r hum tmp) :=
  { hs with res := rfl, mhI := rfl, mhT := rfl, mtI := rfl, mtT := rfl }

theorem SameVisible.recordCheck (hs : SameVisible s t) (c : CheckResult) :
    SameVisible (s.recordCheck c) (t.recordCheck c) := by
  cases c with
  | sensorErr => exact hs.setCheck _ _ _
  | ok hum tmp => exact hs.setCheck _ _ _

/-- FCLR makes every cell stale: none is left that must agree. -/
theorem SameVisible.clearPointer (hs : SameVisible s t) : SameVisible (s.setWp 0) (t.setWp 0) :=
  { hs with wp := rfl, loaded := fun i hi _ => absurd hi (Nat.not_lt_zero i) }

/-- FPUSH writes the one cell that it makes visible. -/
theorem SameVisible.pushByte (hs : SameVisible s t) (b : Byte) :
    SameVisible ((s.storeCell s.wp.toNat b).setWp (nextPointer s.wp b))
      ((t.storeCell s.wp.toNat b).setWp (nextPointer s.wp b)) := by
  have loaded : ∀ i, i < (nextPointer s.wp b).toNat → i < 8 →
      (t.storeCell s.wp.toNat b).fb.read i = (s.storeCell s.wp.toNat b).fb.read i := by
    intro i hi h8
    obtain rfl | hlt := eq_or_lt_of_lt_nextPointer hi h8
    · rw [State.storeCell_read_same t b h8, State.storeCell_read_same s b h8]
    · rw [State.storeCell_read_other t b hlt.ne, State.storeCell_read_other s b hlt.ne, hs.loaded i hlt h8]
  rw [State.storeCell_eq, State.storeCell_eq] at loaded ⊢
  exact { hs with wp := rfl, loaded := loaded }

/-- With a full buffer no cell is stale: FCHK checks the same frame. -/
theorem SameVisible.frame (hs : SameVisible s t) (hw : s.wp = 8) : t.fb.frame = s.fb.frame := by
  have hcell : ∀ i, i < 8 → t.fb.lookup i = s.fb.lookup i := fun i hi => by
    have hread := hs.loaded i (by rw [hw]; exact hi) hi
    rwa [Memory.read_cell _ hi, Memory.read_cell _ hi, Option.some_inj] at hread
  simp only [Memory.frame_eq, hcell, Nat.reduceLT]

/-! `MatchedBy`, by the shape of an answer. -/

theorem SameVisible.matched (hs : SameVisible s t) : MatchedBy (.next s) (.next t) := by
  intro s' h
  cases h
  exact ⟨t, rfl, hs⟩

theorem MatchedBy.ite {c : Prop} [Decidable c] {r r' q q' : Result} (hpos : c → MatchedBy r q)
    (hneg : ¬ c → MatchedBy r' q') : MatchedBy (if c then r else r') (if c then q else q') := by
  by_cases hc : c
  · rw [if_pos hc, if_pos hc]
    exact hpos hc
  · rw [if_neg hc, if_neg hc]
    exact hneg hc

/-- Both states are frozen or neither is. -/
theorem SameVisible.unlessFaulted (hs : SameVisible s t) {r q : Result} (h : MatchedBy r q) :
    MatchedBy (unlessFaulted s r) (unlessFaulted t q) := by
  rw [Machine.unlessFaulted, Machine.unlessFaulted, hs.fault]
  exact .ite (fun _ => hs.matched) (fun _ => h)

/-! Every step of the one state is matched by a step of the other. -/

theorem SameVisible.raiseIllegal (hs : SameVisible s t) : MatchedBy (raiseIllegal s) (raiseIllegal t) :=
  hs.unlessFaulted (hs.raiseFault _).matched

theorem SameVisible.execCrcbyte (hs : SameVisible s t) (b : Byte) : MatchedBy (execCrcbyte b s) (execCrcbyte b t) := by
  rw [Machine.execCrcbyte, Machine.execCrcbyte, hs.acc]
  exact hs.unlessFaulted (hs.setAcc _).matched

theorem SameVisible.execFpush (hs : SameVisible s t) (b : Byte) : MatchedBy (execFpush b s) (execFpush b t) := by
  rw [Machine.execFpush, Machine.execFpush, hs.wp]
  exact hs.unlessFaulted (.ite (fun _ => (hs.raiseFault _).matched) (fun _ => (hs.pushByte b).matched))

theorem SameVisible.execFchk (hs : SameVisible s t) : MatchedBy (execFchk s) (execFchk t) := by
  rw [Machine.execFchk, Machine.execFchk, hs.wp]
  refine hs.unlessFaulted (.ite (fun hw => ?_) (fun _ => (hs.raiseFault _).matched))
  rw [hs.frame hw]
  exact (hs.recordCheck _).matched

theorem SameVisible.exec (hs : SameVisible s t) (i : Instr) : MatchedBy (exec i s) (exec i t) := by
  cases i with
  | crcinit => exact hs.unlessFaulted (hs.setAcc _).matched
  | crcbyte b => exact hs.execCrcbyte b
  | combine h l => exact hs.unlessFaulted (hs.setRaw _).matched
  | scale v => exact hs.unlessFaulted (hs.setScaled _).matched
  | decode h l => exact hs.unlessFaulted ((hs.setRaw _).setScaled _).matched
  | fclr => exact hs.unlessFaulted (hs.clearPointer.setCheck _ _ _).matched
  | fpush b => exact hs.execFpush b
  | fchk => exact hs.execFchk

theorem SameVisible.step (hs : SameVisible s t) : MatchedBy (step s) (step t) := by
  cases hin : s.sampled with
  | reset =>
    rw [step_reset hin, step_reset (hs.sampled.trans hin)]
    exact hs.consume.resetStep.matched
  | idle =>
    rw [step_idle hin, step_idle (hs.sampled.trans hin)]
    exact hs.consume.matched
  | cmd w =>
    cases hd : decode w with
    | none =>
      rw [step_illegal hin hd, step_illegal (hs.sampled.trans hin) hd]
      exact hs.consume.raiseIllegal
    | some i =>
      rw [step_command hin hd, step_command (hs.sampled.trans hin) hd]
      exact hs.consume.exec i

end

/-- Settles O44: `SameVisible` is a simulation, and the ports read no cell. -/
theorem staleBytesAreUnobservable : Obligations.StaleBytesAreUnobservable :=
  fun _ _ hs => ⟨hs.ports, hs.step⟩

end Sys2Proof.Safety
end

section
/-! SUPPORT and proofs of the encoding family (30_encoding.md R73, R80 to R83): the decoder and the encoder are inverse, the
illegal words, the rows of the opcode table and the number of legal words, and the end states of the pseudo-commands. -/

namespace Sys2Proof

/-! ### Decoder and encoder (30_encoding.md R80) -/

/-- The encoded word carries the command's opcode and operands in its three bytes. -/
theorem decode_encode (i : Instr) : decode (encode i) = some i := by
  cases i with
  | crcinit => rfl
  | crcbyte b => simp [encode_crcbyte, decode]
  | combine h l => simp [encode_combine, decode]
  | scale v => simp [encode_scale, decode, vField, append_halves]
  | decode h l => simp [encode_decode, decode]
  | fclr => rfl
  | fpush b => simp [encode_fpush, decode]
  | fchk => rfl

section
variable {w : CmdWord} {op a b : Byte}

/-- A word is the one with its three bytes. -/
theorem wordOf_eq (hop : opField w = op) (ha : aField w = a) (hb : bField w = b) : wordOf op a b = w := by
  rw [← hop, ← ha, ← hb, wordOf_fields]

/-- SCALE's operand is the two operand bytes of its word. -/
theorem encode_scale_vField (h : opField w = 0x04) : encode (.scale (vField w)) = w := by
  have hhigh : (vField w).extractLsb' 8 8 = aField w := BitVec.extractLsb'_append_eq_left
  have hlow : (vField w).extractLsb' 0 8 = bField w := BitVec.extractLsb'_append_eq_right
  rw [encode_scale, hhigh, hlow, wordOf_eq h rfl rfl]

/-- Along the decoder's branches: each fixes the bytes that the command does not carry. -/
theorem encode_of_decode {i : Instr} (h : decode w = some i) : encode i = w := by
  unfold decode at h
  split_ifs at h with hcrcinit hcrcbyte hcombine hscale hdecode hfclr hfpush hfchk <;> cases h
  · obtain ⟨hop, ha, hb⟩ := hcrcinit
    exact encode_crcinit.trans (wordOf_eq hop ha hb)
  · obtain ⟨hop, ha⟩ := hcrcbyte
    exact (encode_crcbyte _).trans (wordOf_eq hop ha rfl)
  · exact (encode_combine _ _).trans (wordOf_eq hcombine rfl rfl)
  · exact encode_scale_vField hscale
  · exact (encode_decode _ _).trans (wordOf_eq hdecode rfl rfl)
  · obtain ⟨hop, ha, hb⟩ := hfclr
    exact encode_fclr.trans (wordOf_eq hop ha hb)
  · obtain ⟨hop, ha⟩ := hfpush
    exact (encode_fpush _).trans (wordOf_eq hop ha rfl)
  · obtain ⟨hop, ha, hb⟩ := hfchk
    exact encode_fchk.trans (wordOf_eq hop ha hb)

end

/-- Settles O2: `encode` command by command, `decode` branch by branch. -/
theorem decodeAndEncodeAgree : Obligations.DecodeAndEncodeAgree :=
  ⟨decode_encode, fun _ _ => encode_of_decode⟩

/-- Settles O1: each of the eight words encodes its command. -/
theorem specWordsDecode : Obligations.SpecWordsDecode :=
  ⟨decode_encode .crcinit, decode_encode (.crcbyte 0x36), decode_encode (.combine 0xC5 0x01),
    decode_encode (.scale 566), decode_encode (.decode 0x02 0x36), decode_encode .fclr,
    decode_encode (.fpush 0xDB), decode_encode .fchk, by decide, by decide⟩

theorem encode_injective : Function.Injective encode :=
  fun i j h => Option.some.inj <| by rw [← decode_encode i, h, decode_encode]

/-- The legal words are the encodings of the commands. -/
theorem decode_ne_none_iff (w : CmdWord) : decode w ≠ none ↔ w ∈ Set.range encode := by
  rw [Option.ne_none_iff_exists']
  exact ⟨fun ⟨i, h⟩ => ⟨i, encode_of_decode h⟩, fun ⟨i, h⟩ => ⟨i, h ▸ decode_encode i⟩⟩

/-! ### Which words are illegal (30_encoding.md R81) -/

/-- The reserved opcodes. -/
theorem formatOf_eq_none_iff : ∀ op : Byte, formatOf op = none ↔
    op.toNat = 0x00 ∨ (0x06 ≤ op.toNat ∧ op.toNat ≤ 0x0F) ∨ 0x13 ≤ op.toNat := by
  decide

theorem formatOf_eq_N_iff : ∀ op : Byte, formatOf op = some .N ↔ op = 0x01 ∨ op = 0x10 ∨ op = 0x12 := by
  decide

theorem formatOf_eq_B_iff : ∀ op : Byte, formatOf op = some .B ↔ op = 0x02 ∨ op = 0x11 := by
  decide

/-- What makes a word illegal: its opcode has no format, or the format one that refuses the operand bytes. -/
theorem illegalReason_ne_none_iff (w : CmdWord) : illegalReason w ≠ none ↔
    formatOf (opField w) = none ∨ (formatOf (opField w) = some .N ∧ (aField w ≠ 0 ∨ bField w ≠ 0)) ∨
    (formatOf (opField w) = some .B ∧ aField w ≠ 0) := by
  unfold illegalReason
  cases formatOf (opField w) with
  | none => simp
  | some f => cases f <;> simp [Format.admits, imp_iff_not_or]

/-- The illegal words as R81 lists them. -/
theorem decode_eq_none_iff (w : CmdWord) : decode w = none ↔
    (opField w).toNat = 0x00 ∨ (0x06 ≤ (opField w).toNat ∧ (opField w).toNat ≤ 0x0F) ∨ 0x13 ≤ (opField w).toNat ∨
    ((opField w = 0x01 ∨ opField w = 0x10 ∨ opField w = 0x12) ∧ (aField w ≠ 0 ∨ bField w ≠ 0)) ∨
    ((opField w = 0x02 ∨ opField w = 0x11) ∧ aField w ≠ 0) := by
  rw [decode_none_iff_illegal, illegalReason_ne_none_iff, formatOf_eq_none_iff, formatOf_eq_N_iff, formatOf_eq_B_iff,
    or_assoc, or_assoc]

theorem decode_ne_none_of_admits {w : CmdWord} {f : Format} (hf : formatOf (opField w) = some f)
    (ha : f.admits (aField w) (bField w) = true) : decode w ≠ none := by
  have hlegal : illegalReason w = none := by simp only [illegalReason, hf, ha, if_true]
  exact fun hnone => (decode_none_iff_illegal w).mp hnone hlegal

/-! ### The rows of the opcode table (30_encoding.md R73) -/

/-- The bits of a word that a format fixes (30_encoding.md R71, R73). -/
def Format.mask : Format → CmdWord
  | .N => wordOf 0xFF 0xFF 0xFF
  | .B => wordOf 0xFF 0xFF 0
  | .H => wordOf 0xFF 0 0
  | .W => wordOf 0xFF 0 0

/-- The table is regular: a row's mask is its format's, its pattern has zero operand bytes, and its opcode is assigned
its format. -/
theorem opcodeTable_regular : ∀ r ∈ opcodeTable, r.mask = r.format.mask ∧
    r.pattern = wordOf (opField r.pattern) 0 0 ∧ formatOf (opField r.pattern) = some r.format := by
  decide

/-- No two rows share an opcode. -/
theorem opField_pattern_injOn : ∀ r ∈ opcodeTable, ∀ q ∈ opcodeTable,
    opField r.pattern = opField q.pattern → r = q := by
  decide

theorem wordOf_and (op a b op' a' b' : Byte) :
    wordOf op a b &&& wordOf op' a' b' = wordOf (op &&& op') (a &&& a') (b &&& b') :=
  calc (op ++ a ++ b : BitVec (8 + 8 + 8)) &&& (op' ++ a' ++ b')
    _ = ((op ++ a) &&& (op' ++ a')) ++ (b &&& b') := BitVec.and_append
    _ = (op &&& op') ++ (a &&& a') ++ (b &&& b') := congrArg (· ++ (b &&& b')) BitVec.and_append

theorem wordOf_inj {op a b op' a' b' : Byte} :
    wordOf op a b = wordOf op' a' b' ↔ op = op' ∧ a = a' ∧ b = b' := by
  constructor
  · intro h
    exact ⟨by simpa using congrArg opField h, by simpa using congrArg aField h, by simpa using congrArg bField h⟩
  · rintro ⟨rfl, rfl, rfl⟩
    rfl

/-- Under the mask of a fixed byte all its bits are left (in the spelling that `simp` gives the mask). -/
theorem and_255 (x : Byte) : x &&& 255#8 = x := BitVec.and_allOnes

/-- What the bits a format fixes say of a word, byte by byte. -/
theorem and_format_mask_eq_iff (f : Format) (w : CmdWord) (op : Byte) :
    w &&& f.mask = wordOf op 0 0 ↔ opField w = op ∧ f.admits (aField w) (bField w) = true := by
  rw [← wordOf_fields w]
  cases f <;> simp [Format.mask, Format.admits, wordOf_and, wordOf_inj, and_255]

/-- A word lies in a row when it has the row's opcode and operand bytes that the row's format admits. -/
theorem Row.holds_iff {r : Row} (hr : r ∈ opcodeTable) (w : CmdWord) :
    r.holds w = true ↔ opField w = opField r.pattern ∧ r.format.admits (aField w) (bField w) = true := by
  obtain ⟨hmask, hpattern, -⟩ := opcodeTable_regular r hr
  rw [Row.holds, beq_iff_eq, hmask, hpattern, opField_wordOf, and_format_mask_eq_iff]

theorem Row.eq_of_holds {r q : Row} {w : CmdWord} (hr : r ∈ opcodeTable) (hq : q ∈ opcodeTable)
    (hrw : r.holds w = true) (hqw : q.holds w = true) : r = q := by
  obtain ⟨hrop, -⟩ := (Row.holds_iff hr w).mp hrw
  obtain ⟨hqop, -⟩ := (Row.holds_iff hq w).mp hqw
  exact opField_pattern_injOn r hr q hq (hrop.symm.trans hqop)

/-- A word of a row is legal: the row's format is its opcode's. -/
theorem decode_ne_none_of_holds {r : Row} {w : CmdWord} (hr : r ∈ opcodeTable) (h : r.holds w = true) :
    decode w ≠ none := by
  obtain ⟨-, -, hformat⟩ := opcodeTable_regular r hr
  obtain ⟨hop, hadmits⟩ := (Row.holds_iff hr w).mp h
  rw [← hop] at hformat
  exact decode_ne_none_of_admits hformat hadmits

/-- A command's word lies in the row of its mnemonic and format, whatever the command. -/
theorem encodingInRow (i : Instr) : Laws.EncodingInRow.Statement i := by
  cases i with
  | crcinit => exact Laws.EncodingInRow.crcinit
  | crcbyte b => exact Laws.EncodingInRow.crcbyte b
  | combine h l => exact Laws.EncodingInRow.combine h l
  | scale v => exact Laws.EncodingInRow.scale v
  | decode h l => exact Laws.EncodingInRow.decode h l
  | fclr => exact Laws.EncodingInRow.fclr
  | fpush b => exact Laws.EncodingInRow.fpush b
  | fchk => exact Laws.EncodingInRow.fchk

/-! ### How many words are legal -/

theorem card_bitVec (n : Nat) : Fintype.card (BitVec n) = 2 ^ n := by
  rw [← FinEnum.card_eq_fintypeCard, FinEnum.card_bitVec]

/-- A command is its constructor and its operands, here in the order of the constructors. -/
def Instr.operandsEquiv :
    Unit ⊕ Byte ⊕ (_ : Byte) × Byte ⊕ Word ⊕ (_ : Byte) × Byte ⊕ Unit ⊕ Byte ⊕ Unit ≃ Instr :=
  proxy_equiv% Instr

/-- 3 commands without operands, 2 with one byte, 3 with two bytes or a 16-bit value. -/
theorem card_instr : Nat.card Instr = 197123 := by
  rw [← Nat.card_congr Instr.operandsEquiv]
  simp [card_bitVec]

/-- There are as many legal words as commands: `encode` is one to one on to them. -/
theorem card_legalWords : Nat.card { w : CmdWord // decode w ≠ none } = 197123 :=
  calc Nat.card { w : CmdWord // decode w ≠ none }
    _ = Nat.card (Set.range encode) := Nat.card_congr (Equiv.subtypeEquivRight decode_ne_none_iff)
    _ = Nat.card Instr := Nat.card_range_of_injective encode_injective
    _ = 197123 := card_instr

/-- Settles O4: rows by their opcodes, a legal word as its command's encoding, legal words counted as commands. -/
theorem opcodeTableSelectsOneCommand : Obligations.OpcodeTableSelectsOneCommand := by
  refine ⟨fun w r q => Row.eq_of_holds, fun w i hd => ?_, fun w hd r hr => ?_, card_legalWords⟩
  · obtain ⟨r, hr, hmnemonic, hformat, hholds⟩ := encodingInRow i
    rw [encode_of_decode hd] at hholds
    exact ⟨r, hr, hholds, hmnemonic, hformat⟩
  · exact Bool.eq_false_iff.mpr fun hholds => decode_ne_none_of_holds hr hholds hd

end Sys2Proof

namespace Sys2Proof.Machine

/-! ### Executing an illegal word -/

/-- Settles O3: the illegal words by opcode and format, the step by the rule for an illegal word on a running block. -/
theorem illegalWordsRaiseIllegal : Obligations.IllegalWordsRaiseIllegal := by
  refine ⟨decode_eq_none_iff, fun s p rest hin hrst hvalid hfault hd => ?_, by decide, by decide⟩
  have hs : s.sampled = .cmd p.cmd := (State.sampled_cons hin).trans (PortSample.input_cmd hrst hvalid)
  have hraise : raiseIllegal s.consume = .next (s.consume.raiseFault FCode.illegal) :=
    unlessFaulted_running (s := s.consume) hfault _
  rw [step_illegal hs hd, hraise, State.consume_cons hin]
  rfl

/-! ### Commands issued at successive edges (30_encoding.md R83) -/

theorem State.play_append (s : State) (ps qs : List PortSample) :
    s.play (ps ++ qs) = andThen (s.play ps) fun t => t.play qs := by
  induction ps generalizing s with
  | nil => rfl
  | cons p ps ih =>
    rw [List.cons_append, State.play_cons, State.play_cons]
    cases s.edge p with
    | next t => exact ih t
    | fault e => rfl
    | refused e => rfl

theorem issue_command (i : Instr) : (issue i).command = some i := decode_encode i

/-- The first of the issued commands is executed, and the others are issued to the state it leaves. -/
theorem State.play_issue_cons {s t : State} {i : Instr} (h : exec i s = .next t) (is : List Instr) :
    s.play ((i :: is).map issue) = t.play (is.map issue) := by
  rw [List.map_cons, State.play_cons, State.edge_command s (issue_command i), h, andThen_next]

theorem State.play_issue_single {s t : State} {i : Instr} (h : exec i s = .next t) : s.play [issue i] = .next t :=
  State.play_issue_cons h []

/-! CRC16: the fold of the bytes. -/

/-- CRCBYTE of each byte in turn folds the bytes into `ACC`. -/
theorem State.play_crcbytes (s : State) (h : s.fault = 0) (bs : List Byte) :
    s.play ((bs.map Instr.crcbyte).map issue) = .next (s.setAcc (bs.foldl crcStep s.acc)) := by
  induction bs generalizing s with
  | nil => rfl
  | cons b bs ih =>
    have hbyte : exec (.crcbyte b) s = .next (s.setAcc (crcStep s.acc b)) := unlessFaulted_running h _
    exact (State.play_issue_cons hbyte _).trans (ih (s.setAcc (crcStep s.acc b)) h)

theorem State.play_crc16 (s : State) (h : s.fault = 0) (bs : List Byte) :
    s.play ((Pseudo.crc16 bs).expand.map issue) = .next (s.setAcc (crc16 bs)) := by
  have hinit : exec .crcinit s = .next (s.setAcc Config.crcInit) := unlessFaulted_running h _
  exact (State.play_issue_cons hinit _).trans (State.play_crcbytes (s.setAcc Config.crcInit) h bs)

/-! FRAME: the bytes go to consecutive cells. -/

/-- The buffer with these bytes written at `k` and the indices after it. -/
def Memory.putList : Memory → Nat → List Byte → Memory
  | m, _, [] => m
  | m, k, b :: bs => (m.put k b).putList (k + 1) bs

theorem Memory.lookup_putList_below (m : Memory) {k a : Nat} (bs : List Byte) (h : a < k) :
    (m.putList k bs).lookup a = m.lookup a := by
  induction bs generalizing m k with
  | nil => rfl
  | cons b bs ih => rw [Memory.putList, ih _ (by omega), Memory.lookup_put_other m b (by omega)]

theorem Memory.lookup_putList (m : Memory) (k : Nat) (bs : List Byte) {j : Nat} (h : j < bs.length) :
    (m.putList k bs).lookup (k + j) = bs[j] := by
  induction bs generalizing m k j with
  | nil => cases h
  | cons b bs ih =>
    cases j with
    | zero => exact (Memory.lookup_putList_below _ bs (by omega)).trans (Memory.lookup_put_same m k b)
    | succ j =>
      rw [Memory.putList, show k + (j + 1) = k + 1 + j by omega, ih]
      rfl

/-- The state with one byte pushed (42_frame_check.md R133). -/
def State.pushed (s : State) (b : Byte) : State := { s with fb := s.fb.put s.wp.toNat b, wp := s.wp + 1 }

theorem exec_fpush_room {s : State} (h : s.fault = 0) (hw : s.wp.toNat < 8) (b : Byte) :
    exec (.fpush b) s = .next (s.pushed b) := execFpush_store h hw

/-- The state with these bytes written from the cell at `WP` on, and `WP` moved past them. -/
def State.loaded (s : State) (bs : List Byte) : State :=
  { s with fb := s.fb.putList s.wp.toNat bs, wp := s.wp + BitVec.ofNat 4 bs.length }

theorem State.loaded_nil (s : State) : s.loaded [] = s :=
  congrArg s.setWp (BitVec.add_zero s.wp)

theorem State.loaded_cons (s : State) (b : Byte) (bs : List Byte) (hw : s.wp.toNat < 8) :
    s.loaded (b :: bs) = (s.pushed b).loaded bs := by
  have hnext : (s.wp + 1).toNat = s.wp.toNat + 1 := by bv_omega
  have hsum : s.wp + BitVec.ofNat 4 (bs.length + 1) = s.wp + 1 + BitVec.ofNat 4 bs.length := by
    rw [BitVec.add_assoc, Nat.add_comm, BitVec.ofNat_add]
    rfl
  simp only [State.loaded, State.pushed, hnext, List.length_cons, hsum, Memory.putList]

/-- FPUSH of each byte in turn, no more bytes than there are cells left. -/
theorem State.play_fpushes (s : State) (h : s.fault = 0) (bs : List Byte) (hlen : s.wp.toNat + bs.length ≤ 8) :
    s.play ((bs.map Instr.fpush).map issue) = .next (s.loaded bs) := by
  induction bs generalizing s with
  | nil => rw [State.loaded_nil]; rfl
  | cons b bs ih =>
    rw [List.length_cons] at hlen
    have hw : s.wp.toNat < 8 := by omega
    have hroom : (s.wp + 1).toNat + bs.length ≤ 8 := by bv_omega
    rw [State.loaded_cons s b bs hw]
    exact (State.play_issue_cons (exec_fpush_room h hw b) _).trans (ih (s.pushed b) h hroom)

/-- The state as FCLR leaves it. -/
def State.cleared (s : State) : State := (s.setWp 0).setCheck Res.none zeroScaled zeroScaled

theorem exec_fclr_running {s : State} (h : s.fault = 0) : exec .fclr s = .next s.cleared := unlessFaulted_running h _

/-- The end state of FRAME. -/
def State.withFrame (s : State) (f : Frame) : State := s.cleared.loaded f.toList

theorem State.play_frame (s : State) (h : s.fault = 0) (f : Frame) :
    s.play ((Pseudo.frame f.toList).expand.map issue) = .next (s.withFrame f) :=
  (State.play_issue_cons (exec_fclr_running h) _).trans <|
    State.play_fpushes s.cleared h f.toList ((Nat.zero_add _).trans f.length_toList).le

theorem State.withFrame_fault (s : State) (f : Frame) : (s.withFrame f).fault = s.fault := rfl

theorem State.withFrame_wp (s : State) (f : Frame) : (s.withFrame f).wp = 8 := by
  show (0 : BitVec 4) + BitVec.ofNat 4 f.toList.length = 8
  rw [f.length_toList]
  rfl

theorem State.withFrame_lookup (s : State) (f : Frame) (i : Fin 8) : (s.withFrame f).fb.lookup i = f[i] := by
  have h := Memory.lookup_putList s.fb 0 f.toList (j := i) (by rw [f.length_toList]; exact i.isLt)
  rw [Nat.zero_add, Vector.getElem_toList] at h
  exact h

theorem State.withFrame_read (s : State) (f : Frame) (i : Fin 8) : (s.withFrame f).fb.read i = some f[i] := by
  rw [Memory.read_cell _ i.isLt, State.withFrame_lookup]

/-! VALIDATE: FRAME, then FCHK of the frame just pushed. -/

theorem Memory.frame_getElem (m : Memory) (i : Fin 8) : m.frame[i] = m.lookup i := by
  fin_cases i <;> rfl

/-- The frame that FCHK finds after FRAME is the one pushed. -/
theorem State.withFrame_frame (s : State) (f : Frame) : (s.withFrame f).fb.frame = f :=
  Vector.ext fun i hi => (Memory.frame_getElem _ ⟨i, hi⟩).trans (s.withFrame_lookup f ⟨i, hi⟩)

theorem exec_fchk_full {s : State} (h : s.fault = 0) (hw : s.wp = 8) :
    exec .fchk s = .next (s.recordCheck (validate s.fb.frame)) :=
  (unlessFaulted_running h _).trans (if_pos hw)

theorem State.play_validate (s : State) (h : s.fault = 0) (f : Frame) :
    s.play ((Pseudo.validate f.toList).expand.map issue) = .next ((s.withFrame f).recordCheck (validate f)) := by
  have hchk : exec .fchk (s.withFrame f) = .next ((s.withFrame f).recordCheck (validate f)) :=
    (exec_fchk_full (s := s.withFrame f) h (s.withFrame_wp f)).trans (by rw [State.withFrame_frame])
  calc s.play ((Pseudo.validate f.toList).expand.map issue)
    _ = s.play ((Pseudo.frame f.toList).expand.map issue ++ [issue .fchk]) := congrArg s.play List.map_append
    _ = .next ((s.withFrame f).recordCheck (validate f)) := by
        rw [State.play_append, State.play_frame s h f, andThen_next, State.play_issue_single hchk]

/-- Settles O47: the end state of each pseudo-command is known, its registers and cells are read off. -/
theorem pseudoCommandsEndStates : Obligations.PseudoCommandsEndStates := by
  intro s h
  refine ⟨s.play_crc16 h, fun f => ⟨_, s.play_frame h f, s.withFrame_wp f, s.withFrame_read f, rfl⟩, fun f => ?_⟩
  refine ⟨_, s.play_validate h f, ?wp, ?cells, ?fault, ?ok, ?sensorErr⟩
  case wp => rw [State.recordCheck_wp, State.withFrame_wp]
  case cells => rw [State.recordCheck_fb]; exact s.withFrame_read f
  case fault => rw [State.recordCheck_fault, State.withFrame_fault, h]
  case ok => intro hum tmp hv; rw [hv]; exact ⟨rfl, rfl, rfl, rfl, rfl⟩
  case sensorErr => intro hv; rw [hv]; exact ⟨rfl, rfl, rfl, rfl, rfl⟩

end Sys2Proof.Machine
end

section
/-! SUPPORT and proofs of the CRC family (40_crc.md R90 to R96): the iteration bit by bit, that it is linear and loses
nothing, the residue, and `ACC` along a sequence of samples. -/

namespace Sys2Proof.Machine

open Sys2Proof.Safety

/-! ### One iteration (40_crc.md R90) -/

theorem crcShift_of_one {a : Word} (h : a.getLsbD 0 = true) : crcShift a = (a >>> 1) ^^^ Config.crcPoly := if_pos h

theorem crcShift_of_zero {a : Word} (h : a.getLsbD 0 = false) : crcShift a = a >>> 1 :=
  if_neg (Bool.eq_false_iff.mp h)

/-- Bit `k` of an iteration: the next bit of the accumulator, flipped where a dropped 1 meets the polynomial. -/
theorem crcShift_getLsbD (a : Word) (k : Nat) :
    (crcShift a).getLsbD k = (a.getLsbD (k + 1) ^^ (a.getLsbD 0 && Config.crcPoly.getLsbD k)) := by
  cases h : a.getLsbD 0 with
  | true => rw [crcShift_of_one h, BitVec.getLsbD_xor, BitVec.getLsbD_ushiftRight, Nat.add_comm, Bool.true_and]
  | false => rw [crcShift_of_zero h, BitVec.getLsbD_ushiftRight, Nat.add_comm, Bool.false_and, Bool.xor_false]

/-- The iteration on numbers. -/
def crcShiftNat (a : Nat) : Nat := if a % 2 = 1 then (a / 2) ^^^ 0xA001 else a / 2

theorem crcShift_toNat (a : Word) : (crcShift a).toNat = crcShiftNat a.toNat := by
  have hlow : a.getLsbD 0 = decide (a.toNat % 2 = 1) := Nat.testBit_zero a.toNat
  by_cases h : a.toNat % 2 = 1
  · rw [crcShift_of_one (by simp only [hlow, h, decide_true]), BitVec.toNat_xor, BitVec.toNat_ushiftRight,
      Nat.shiftRight_one, crcShiftNat, if_pos h]
    rfl
  · rw [crcShift_of_zero (by simp only [hlow, h, decide_false]), BitVec.toNat_ushiftRight, Nat.shiftRight_one,
      crcShiftNat, if_neg h]

/-- The iteration is linear over XOR. -/
theorem crcShift_xor (a c : Word) : crcShift (a ^^^ c) = crcShift a ^^^ crcShift c := by
  apply BitVec.eq_of_getLsbD_eq
  intro k _
  simp only [crcShift_getLsbD, BitVec.getLsbD_xor, Bool.and_xor_distrib_right, Bool.xor_assoc, Bool.xor_left_comm]

/-- Bit 15 of an iteration is the bit it dropped. -/
theorem crcShift_getLsbD_top (a : Word) : (crcShift a).getLsbD 15 = a.getLsbD 0 := by
  have hpoly : Config.crcPoly.getLsbD 15 = true := by decide
  rw [crcShift_getLsbD, BitVec.getLsbD_of_ge a 16 (Nat.le_refl 16), hpoly, Bool.and_true, Bool.false_xor]

theorem crcShift_injective : Function.Injective crcShift := by
  intro a c h
  have hdropped : a.getLsbD 0 = c.getLsbD 0 := by rw [← crcShift_getLsbD_top, h, crcShift_getLsbD_top]
  apply BitVec.eq_of_getLsbD_eq
  intro k _
  cases k with
  | zero => exact hdropped
  | succ k =>
    have hk := congrArg (BitVec.getLsbD · k) h
    simpa only [crcShift_getLsbD, hdropped, Bool.xor_left_inj] using hk

/-! ### Several iterations -/

theorem crcShifts_eq_iterate (n : Nat) : crcShifts n = crcShift^[n] := by
  induction n with
  | zero => rfl
  | succ n ih => exact congrArg (· ∘ crcShift) ih

theorem crcShifts_toNat (n : Nat) (a : Word) : (crcShifts n a).toNat = crcShiftNat^[n] a.toNat := by
  rw [crcShifts_eq_iterate]
  exact Function.Semiconj.iterate_right crcShift_toNat n a

theorem crcShifts_xor (n : Nat) (a c : Word) : crcShifts n (a ^^^ c) = crcShifts n a ^^^ crcShifts n c := by
  rw [crcShifts_eq_iterate]
  exact Function.Semiconj₂.iterate crcShift_xor n a c

theorem crcShifts_injective (n : Nat) : Function.Injective (crcShifts n) := by
  rw [crcShifts_eq_iterate]
  exact crcShift_injective.iterate n

/-- While only zeros are dropped the polynomial stays out, and the iterations are one shift. -/
theorem crcShifts_of_low_zero {n : Nat} {a : Word} (h : ∀ k < n, a.getLsbD k = false) : crcShifts n a = a >>> n := by
  induction n generalizing a with
  | zero => rfl
  | succ n ih =>
    have hlow : ∀ k < n, (a >>> 1).getLsbD k = false := fun k hk => by
      rw [BitVec.getLsbD_ushiftRight]
      exact h (1 + k) (by omega)
    rw [crcShifts, crcShift_of_zero (h 0 n.succ_pos), ih hlow, ← BitVec.shiftRight_add, Nat.add_comm]

/-! ### Accumulators by their two bytes -/

/-- A byte as the accumulator with high byte 0. -/
theorem setWidth_eq_zero_append (b : Byte) : b.setWidth 16 = (0 : Byte) ++ b := BitVec.setWidth_eq_append (by decide)

/-- XOR of a byte reaches the low byte only (40_crc.md R90). -/
theorem append_xor_setWidth (h l b : Byte) : (h ++ l : Word) ^^^ b.setWidth 16 = h ++ (l ^^^ b) :=
  calc (h ++ l : Word) ^^^ b.setWidth 16
    _ = (h ++ l : Word) ^^^ ((0 : Byte) ++ b) := congrArg _ (setWidth_eq_zero_append b)
    _ = (h ^^^ 0) ++ (l ^^^ b) := BitVec.xor_append
    _ = h ++ (l ^^^ b) := congrArg (· ++ (l ^^^ b)) BitVec.xor_zero

/-- Eight iterations move the high byte down when the low byte is empty. -/
theorem crcShifts_append_zero (h : Byte) : crcShifts 8 (h ++ (0 : Byte)) = h.setWidth 16 := by
  have hlow : ∀ k < 8, (h ++ (0 : Byte) : Word).getLsbD k = false := fun k hk =>
    BitVec.getLsbD_append.trans (by rw [if_pos hk]; exact BitVec.getLsbD_zero)
  have hhigh : (h ++ (0 : Byte) : Word).extractLsb' 8 8 = h := BitVec.extractLsb'_append_eq_left
  rw [crcShifts_of_low_zero hlow, BitVec.ushiftRight_eq_extractLsb'_of_lt (by decide), hhigh,
    setWidth_eq_zero_append]
  rfl

/-! ### `crc_step` -/

theorem crcStep_toNat (acc : Word) (b : Byte) :
    (crcStep acc b).toNat = crcShiftNat^[8] (acc.toNat ^^^ b.toNat) := by
  rw [crcStep, crcShifts_toNat, BitVec.toNat_xor, BitVec.toNat_setWidth_of_le (by decide)]

theorem crcStep_injective (b : Byte) : Function.Injective fun acc : Word => crcStep acc b :=
  fun _ _ h => (BitVec.xor_left_inj _).mp (crcShifts_injective 8 h)

/-- The byte counts only by its XOR into the accumulator (40_crc.md R93 (c)). -/
theorem crcStep_eq_crcStep_zero (acc : Word) (b : Byte) : crcStep acc b = crcStep (acc ^^^ b.setWidth 16) 0x00 :=
  congrArg (crcShifts 8) BitVec.xor_zero.symm

/-- The byte that equals the low byte moves the high byte down (40_crc.md R93 (e)). -/
theorem crcStep_low_byte (h l : Byte) : crcStep (h ++ l) l = h.setWidth 16 := by
  rw [crcStep, append_xor_setWidth, BitVec.xor_self]
  exact crcShifts_append_zero h

/-- The high byte moves down, and what the low byte drops is XORed in. -/
theorem crcStep_zero_append (h l : Byte) : crcStep (h ++ l) 0x00 = h.setWidth 16 ^^^ crcStep (l.setWidth 16) 0x00 := by
  have hsplit : (h ++ l : Word) = h ++ (0 : Byte) ^^^ l.setWidth 16 :=
    ((append_xor_setWidth h 0 l).trans (congrArg (h ++ ·) BitVec.zero_xor)).symm
  calc crcStep (h ++ l) 0x00
    _ = crcShifts 8 (h ++ l) := congrArg (crcShifts 8) BitVec.xor_zero
    _ = crcShifts 8 (h ++ (0 : Byte)) ^^^ crcShifts 8 (l.setWidth 16) := by rw [hsplit, crcShifts_xor]
    _ = h.setWidth 16 ^^^ crcStep (l.setWidth 16) 0x00 :=
        congrArg₂ (· ^^^ ·) (crcShifts_append_zero h) (congrArg (crcShifts 8) BitVec.xor_zero.symm)

/-! ### The residue (40_crc.md R93) -/

theorem crc16_append (xs ys : List Byte) : crc16 (xs ++ ys) = ys.foldl crcStep (crc16 xs) := List.foldl_append

/-- The accumulator's own two bytes, low byte first, take it to zero. -/
theorem crcStep_own_bytes (p q : Byte) : crcStep (crcStep (q ++ p) p) q = 0x0000 := by
  rw [crcStep_low_byte, setWidth_eq_zero_append, crcStep_low_byte]
  rfl

/-- Only its own two bytes do, as each of the two steps is injective. -/
theorem crcStep_crcStep_eq_zero_iff (acc : Word) (p q : Byte) : crcStep (crcStep acc p) q = 0x0000 ↔ q ++ p = acc := by
  constructor
  · intro h
    have hq : crcStep (q ++ p) p = crcStep acc p := crcStep_injective q ((crcStep_own_bytes p q).trans h.symm)
    exact crcStep_injective p hq
  · rintro rfl
    exact crcStep_own_bytes p q

/-- `crc16` of a sequence and two more bytes is zero exactly when the two are the checksum, low byte first. -/
theorem crc16_append_pair_eq_zero_iff (xs : List Byte) (p q : Byte) :
    crc16 (xs ++ [p, q]) = 0x0000 ↔ q ++ p = crc16 xs := by
  rw [crc16_append]
  exact crcStep_crcStep_eq_zero_iff (crc16 xs) p q

/-! ### The fixed points of a zero byte -/

/-- The high byte that an accumulator with low byte `l` has if a zero byte leaves it as it is. -/
def fixedHigh (l : Byte) : Byte := (crcStep (l.setWidth 16) 0x00).extractLsb' 8 8

theorem high_of_crcStep_zero_fixed {h l : Byte} (hfix : crcStep (h ++ l) 0x00 = h ++ l) : h = fixedHigh l :=
  calc h
    _ = (h ++ l : Word).extractLsb' 8 8 := BitVec.extractLsb'_append_eq_left.symm
    _ = (h.setWidth 16 ^^^ crcStep (l.setWidth 16) 0x00).extractLsb' 8 8 := by rw [← hfix, crcStep_zero_append]
    _ = (h.setWidth 16).extractLsb' 8 8 ^^^ fixedHigh l := BitVec.extractLsb'_xor
    _ = 0 ^^^ fixedHigh l := by
        rw [setWidth_eq_zero_append]
        exact congrArg (· ^^^ fixedHigh l) BitVec.extractLsb'_append_eq_left
    _ = fixedHigh l := BitVec.zero_xor

/-- Of the 256 accumulators whose high byte is the one needed, two are fixed. -/
theorem fixedHigh_append (l : Byte) (hfix : crcStep (fixedHigh l ++ l) 0x00 = fixedHigh l ++ l) :
    fixedHigh l ++ l = (0x0000 : Word) ∨ fixedHigh l ++ l = (0xC001 : Word) := by
  revert l
  decide +kernel

theorem crcStep_zero_fixed_iff (acc : Word) : crcStep acc 0x00 = acc ↔ acc = 0x0000 ∨ acc = 0xC001 := by
  constructor
  · intro hfix
    rw [← append_halves acc] at hfix ⊢
    have hhigh := high_of_crcStep_zero_fixed hfix
    rw [hhigh] at hfix ⊢
    exact fixedHigh_append _ hfix
  · rintro (rfl | rfl) <;> decide

/-! ### Frozen blocks (60_exceptions.md R187) -/

theorem exec_faulted {s : State} (h : s.fault = 1) (i : Instr) : exec i s = .next s := by
  cases i <;> exact unlessFaulted_faulted h _

/-! ### `ACC` at one edge without reset (40_crc.md R96) -/

section
variable {s t : State} {p : PortSample}

/-- All that an edge without reset can do. -/
theorem State.edge_cases (hrst : p.rst = 0) (h : s.edge p = .next t) :
    (∃ i, p.command = some i ∧ exec i s = .next t) ∨ (p.command = none ∧ (t = s ∨ raiseIllegal s = .next t)) := by
  cases hc : p.command with
  | some i => exact .inl ⟨i, rfl, (s.edge_command hc).symm.trans h⟩
  | none =>
    refine .inr ⟨rfl, ?_⟩
    by_cases hv : p.cmdValid = 1
    · have hin : p.input = .cmd p.cmd := PortSample.input_cmd hrst hv
      rw [PortSample.command, hin] at hc
      exact .inr ((s.edge_illegal hin hc).symm.trans h)
    · rw [s.edge_idle (PortSample.input_idle hrst (bit_ne_one.mp hv))] at h
      cases h
      exact .inl rfl

theorem State.edge_faulted (hf : s.fault = 1) (hrst : p.rst = 0) (h : s.edge p = .next t) : t = s := by
  obtain ⟨i, -, hx⟩ | ⟨-, rfl | hx⟩ := State.edge_cases hrst h
  · rw [exec_faulted hf] at hx
    cases hx
    rfl
  · rfl
  · rw [raiseIllegal, unlessFaulted_faulted hf] at hx
    cases hx
    rfl

theorem PortSample.command_of_crcByte {b : Byte} (h : p.crcByte = some b) : p.command = some (.crcbyte b) := by
  unfold PortSample.crcByte at h
  split at h
  · cases h
    assumption
  · cases h

theorem PortSample.crcByte_of_command {b : Byte} (h : p.command = some (.crcbyte b)) : p.crcByte = some b := by
  rw [PortSample.crcByte, h]

/-- Only the CRC unit writes `ACC` (10_state.md R32). -/
theorem exec_acc_of_not_crc {i : Instr} (hi : isCrcCommand i = false) (h : exec i s = .next t) : t.acc = s.acc := by
  obtain hu | hu | hu := isCrc_or_isDecode_or_isFrame i
  · rw [hi] at hu
    cases hu
  · obtain ⟨r, v, rfl, -⟩ := exec_decodeCommand_next hu h
    rfl
  · obtain ⟨-, c, rfl⟩ | ht := exec_frameCommand_next hu h
    · rfl
    · rw [ht]
      rfl

theorem State.edge_acc_of_crcByte {b : Byte} (h0 : s.fault = 0) (hb : p.crcByte = some b) (h : s.edge p = .next t) :
    t.acc = crcStep s.acc b := by
  rw [s.edge_command (PortSample.command_of_crcByte hb)] at h
  obtain ⟨h1, -⟩ | ⟨-, rfl⟩ := execCrcbyte_next h
  · exact absurd h0 (by rw [h1]; decide)
  · rfl

theorem State.edge_acc_of_not_crc (hrst : p.rst = 0) (hinit : p.command ≠ some .crcinit) (hb : p.crcByte = none)
    (h : s.edge p = .next t) : t.acc = s.acc := by
  obtain ⟨i, hc, hx⟩ | ⟨-, rfl | hx⟩ := State.edge_cases hrst h
  · refine exec_acc_of_not_crc ?_ hx
    cases i with
    | crcinit => exact absurd hc hinit
    | crcbyte b => rw [PortSample.crcByte_of_command hc] at hb; cases hb
    | _ => rfl
  · rfl
  · obtain ⟨-, rfl⟩ | ⟨-, rfl⟩ := raiseIllegal_next hx <;> rfl

end

/-! ### `ACC` along a sequence without reset (40_crc.md R96) -/

section
variable {s t : State} {ps : List PortSample}

theorem State.play_cons_next {p : PortSample} (h : s.play (p :: ps) = .next t) :
    ∃ u, s.edge p = .next u ∧ u.play ps = .next t :=
  andThen_eq_next ((s.play_cons p ps).symm.trans h)

theorem State.play_faulted (hf : s.fault = 1) (hps : ∀ p ∈ ps, p.rst = 0) (h : s.play ps = .next t) : t = s := by
  induction ps with
  | nil => cases h; rfl
  | cons p ps ih =>
    obtain ⟨hrst, hps⟩ := List.forall_mem_cons.mp hps
    obtain ⟨u, hu, hplay⟩ := State.play_cons_next h
    obtain rfl := State.edge_faulted hf hrst hu
    exact ih hps hplay

/-- A block that is not faulted at the end was never faulted (60_exceptions.md R188). -/
theorem State.fault_zero_of_play (hps : ∀ p ∈ ps, p.rst = 0) (h : s.play ps = .next t) (hf : t.fault = 0) :
    s.fault = 0 := by
  refine bit_ne_one.mp fun h1 => ?_
  rw [State.play_faulted h1 hps h, h1] at hf
  cases hf

/-- Without reset, CRCINIT and fault, `ACC` folds in the bytes that the CRCBYTEs feed. -/
theorem State.play_acc (hps : ∀ p ∈ ps, p.rst = 0 ∧ p.command ≠ some .crcinit) (h : s.play ps = .next t)
    (hf : t.fault = 0) : t.acc = (ps.filterMap PortSample.crcByte).foldl crcStep s.acc := by
  induction ps generalizing s with
  | nil => cases h; rfl
  | cons p ps ih =>
    have h0 : s.fault = 0 := State.fault_zero_of_play (fun q hq => (hps q hq).1) h hf
    obtain ⟨⟨hrst, hinit⟩, hps⟩ := List.forall_mem_cons.mp hps
    obtain ⟨u, hu, hplay⟩ := State.play_cons_next h
    rw [ih hps hplay]
    cases hb : p.crcByte with
    | some b => rw [State.edge_acc_of_crcByte h0 hb hu, List.filterMap_cons_some hb, List.foldl_cons]
    | none => rw [State.edge_acc_of_not_crc hrst hinit hb hu, List.filterMap_cons_none hb]

/-- Without reset and CRC commands, `ACC` keeps its value, faulted or not. -/
theorem State.play_acc_of_not_crc (hps : ∀ p ∈ ps, p.rst = 0 ∧ p.command ≠ some .crcinit ∧ p.crcByte = none)
    (h : s.play ps = .next t) : t.acc = s.acc := by
  induction ps generalizing s with
  | nil => cases h; rfl
  | cons p ps ih =>
    obtain ⟨⟨hrst, hinit, hb⟩, hps⟩ := List.forall_mem_cons.mp hps
    obtain ⟨u, hu, hplay⟩ := State.play_cons_next h
    exact (ih hps hplay).trans (State.edge_acc_of_not_crc hrst hinit hb hu)

end

/-! ### The obligations -/

/-- Settles O15: the iteration commutes with the reading as a number, so its eightfold iterate does. -/
theorem crcStepIsTheBitProcedure : Obligations.CrcStepIsTheBitProcedure := crcStep_toNat

/-- Settles O16: the values by evaluation, the residue from the checksum of the same six bytes. -/
theorem crcKnownValues : Obligations.CrcKnownValues := by
  have hsum : crc16 [0x03, 0x04, 0x02, 0x36, 0x00, 0xDB] = 0x0550 := by decide +kernel
  exact ⟨rfl, hsum, by decide, by decide, by decide, by decide +kernel, by decide +kernel, by decide +kernel,
    (crc16_append_pair_eq_zero_iff [0x03, 0x04, 0x02, 0x36, 0x00, 0xDB] 0x50 0x05).mpr hsum.symm⟩

/-- Settles O17: both steps on the last two bytes are injective, and the checksum's own bytes lead to zero. -/
theorem crcResidueIsZeroExactlyForTheChecksum : Obligations.CrcResidueIsZeroExactlyForTheChecksum :=
  ⟨fun xs b => crc16_append xs [b], crcStep_eq_crcStep_zero, crc16_append_pair_eq_zero_iff⟩

/-- Settles O18: an injective function of a finite type to itself. -/
theorem crcStepIsABijection : Obligations.CrcStepIsABijection := fun b =>
  have : Finite Word := Finite.of_equiv _ BitVec.equivFin.symm.toEquiv
  Finite.injective_iff_bijective.mp (crcStep_injective b)

/-- Settles O19: the low byte of a fixed accumulator gives the high byte; 256 accumulators are left. -/
theorem zeroByteFixedPoints : Obligations.ZeroByteFixedPoints := crcStep_zero_fixed_iff

/-- Settles O20. -/
theorem crcinitSetsTheAccumulator : Obligations.CrcinitSetsTheAccumulator :=
  ⟨rfl, fun _ h => unlessFaulted_running h _, fun _ h => exec_faulted h .crcinit⟩

/-- Settles O21. -/
theorem crcbyteFoldsTheByteIn : Obligations.CrcbyteFoldsTheByteIn := fun b =>
  ⟨rfl, fun _ h => unlessFaulted_running h _, fun _ h => exec_faulted h (.crcbyte b)⟩

/-- Settles O22: CRCINIT sets `ACC`, the samples after it fold in the bytes; from reset nothing changes `ACC`. -/
theorem checksumSequenceLaw : Obligations.ChecksumSequenceLaw := by
  constructor
  · intro s t ps h0 hps hplay hf
    have hinit : exec .crcinit s = .next (s.setAcc Config.crcInit) := unlessFaulted_running h0 _
    rw [State.play_cons, s.edge_command (issue_command .crcinit), hinit, andThen_next] at hplay
    exact ⟨State.play_acc hps hplay hf, rfl⟩
  · intro t ps hps hplay
    exact ⟨State.play_acc_of_not_crc hps hplay, rfl⟩

end Sys2Proof.Machine
end

section
/-! SUPPORT and proofs of the decode family (41_decode_scale.md R110 to R118): `combine` and `scale10` as numbers, and
what the three commands answer with `FAULT = 0`. -/

namespace Sys2Proof.Machine

open Sys2Proof.Safety

/-! ### The operand functions as numbers (41_decode_scale.md R110 to R112) -/

theorem combine_toNat (h l : Byte) : (combine h l).toNat = 256 * h.toNat + l.toNat :=
  calc (combine h l).toNat
    _ = h.toNat <<< 8 ||| l.toNat := by rw [combine_eq_append, BitVec.toNat_append]
    _ = h.toNat <<< 8 + l.toNat := (Nat.shiftLeft_add_eq_or_of_lt l.isLt _).symm
    _ = 256 * h.toNat + l.toNat := by rw [Nat.shiftLeft_eq, Nat.mul_comm]

theorem combine_high (h l : Byte) : (combine h l).extractLsb' 8 8 = h := by
  rw [combine_eq_append]
  exact BitVec.extractLsb'_append_eq_left

theorem combine_low (h l : Byte) : (combine h l).extractLsb' 0 8 = l := by
  rw [combine_eq_append]
  exact BitVec.extractLsb'_append_eq_right

theorem combine_halves (v : Word) : combine (v.extractLsb' 8 8) (v.extractLsb' 0 8) = v :=
  (combine_eq_append _ _).trans (append_halves v)

/-- The quotient fits in the 13 bits of the integer part. -/
theorem scale10_int_toNat (v : Word) : (scale10 v).int.toNat = v.toNat / 10 :=
  (BitVec.toNat_ofNat _ _).trans (Nat.mod_eq_of_lt (Nat.div_lt_of_lt_mul (v.isLt.trans (by decide))))

/-- The remainder fits in the 4 bits of the tenths digit. -/
theorem scale10_tenths_toNat (v : Word) : (scale10 v).tenths.toNat = v.toNat % 10 :=
  (BitVec.toNat_ofNat _ _).trans (Nat.mod_eq_of_lt ((Nat.mod_lt _ (by decide)).trans (by decide)))

theorem scale10_exact (v : Word) : 10 * (scale10 v).int.toNat + (scale10 v).tenths.toNat = v.toNat := by
  rw [scale10_int_toNat, scale10_tenths_toNat, Nat.div_add_mod]

/-- The pair determines the value: it gives it back by `scale10_exact` (41_decode_scale.md R112 (c)). -/
theorem scale10_injective : Function.Injective scale10 := fun u v h =>
  BitVec.eq_of_toNat_eq <|
    calc u.toNat
      _ = 10 * (scale10 u).int.toNat + (scale10 u).tenths.toNat := (scale10_exact u).symm
      _ = 10 * (scale10 v).int.toNat + (scale10 v).tenths.toNat := by rw [h]
      _ = v.toNat := scale10_exact v

/-- Bit 15 counts as 32768, not as a sign (41_decode_scale.md R118). -/
theorem scale10_int_of_bit15 {v : Word} (h : v.getLsbD 15 = true) : 3276 ≤ (scale10 v).int.toNat := by
  have hv : 2 ^ 15 ≤ v.toNat := Nat.ge_two_pow_of_testBit h
  rw [scale10_int_toNat]
  omega

/-! ### The commands with `FAULT = 0` (41_decode_scale.md R113 to R115) -/

section
variable {s : State} (h0 : s.fault = 0)
include h0

theorem exec_combine_running (h l : Byte) : exec (.combine h l) s = .next (s.setRaw (combine h l)) :=
  unlessFaulted_running h0 _

theorem exec_scale_running (v : Word) : exec (.scale v) s = .next (s.setScaled (scale10 v)) :=
  unlessFaulted_running h0 _

theorem exec_decode_running (h l : Byte) :
    exec (.decode h l) s = .next ((s.setRaw (combine h l)).setScaled (scale10 (combine h l))) :=
  unlessFaulted_running h0 _

/-- COMBINE leaves `FAULT` at 0, so the SCALE after it is not ignored. -/
theorem exec_decode_eq_combine_scale (h l : Byte) :
    exec (.decode h l) s = andThen (exec (.combine h l) s) (exec (.scale (combine h l))) := by
  have hraw : (s.setRaw (combine h l)).fault = 0 := h0
  rw [exec_decode_running h0, exec_combine_running h0, andThen_next, exec_scale_running hraw]

end

/-! ### The obligations -/

/-- Settles O23: `combine` is concatenation. -/
theorem combineIsBigEndian : Obligations.CombineIsBigEndian :=
  ⟨combine_toNat, fun h l => ⟨combine_high h l, combine_low h l⟩, combine_halves⟩

/-- Settles O24: quotient and remainder fit their fields, so the pair is exact and gives the value back. -/
theorem scaledPairIsExact : Obligations.ScaledPairIsExact :=
  ⟨fun v => ⟨scale10_exact v, scale10_inRange v, scale10_int_toNat v, scale10_tenths_toNat v⟩,
    fun _ _ h => scale10_injective h, rfl, rfl⟩

/-- Settles O25: bit 15 makes the value at least 32768. -/
theorem rawValuesAreUnsigned : Obligations.RawValuesAreUnsigned :=
  ⟨rfl, fun _ h => scale10_int_of_bit15 h⟩

/-- Settles O26. -/
theorem combineWritesRaw : Obligations.CombineWritesRaw := fun h l =>
  ⟨rfl, fun _ h0 => exec_combine_running h0 h l⟩

/-- Settles O27. -/
theorem scaleWritesThePair : Obligations.ScaleWritesThePair := fun v =>
  ⟨rfl, fun _ h0 => exec_scale_running h0 v⟩

/-- Settles O28: the effect in one step, and the same effect in two. -/
theorem decodeWritesRawAndThePair : Obligations.DecodeWritesRawAndThePair := fun h l =>
  ⟨rfl, fun _ h0 => ⟨exec_decode_running h0 h l, exec_decode_eq_combine_scale h0 h l⟩⟩

end Sys2Proof.Machine
end

section
/-! SUPPORT and proofs of the frame family (42_frame_check.md R131 to R138): which frames pass and how many, what FCLR,
FPUSH and FCHK answer, the bytes loaded along a sequence of samples, and what the measurement ports show. -/

namespace Sys2Proof.Machine

open Sys2Proof.Safety

/-! ### Which frames pass (42_frame_check.md R131) -/

/-- The two checks of R131: the header bytes, and the checksum of the first six bytes. -/
def PassesChecks (f : Frame) : Prop :=
  f[0] = 0x03 ∧ f[1] = 0x04 ∧ crc16 [f[0], f[1], f[2], f[3], f[4], f[5]] = combine f[7] f[6]

theorem checks_iff (f : Frame) : headerOk f = true ∧ checksumOk f = true ↔ PassesChecks f := by
  rw [headerOk, checksumOk, Bool.and_eq_true, beq_iff_eq, beq_iff_eq, beq_iff_eq, and_assoc]
  rfl

section
variable {f : Frame}

theorem validate_passing (h : PassesChecks f) :
    validate f = .ok (scale10 (combine f[2] f[3])) (scale10 (combine f[4] f[5])) := by
  obtain ⟨hhead, hsum⟩ := (checks_iff f).mpr h
  rw [validate, if_pos hhead, if_pos hsum]

theorem validate_failing (h : ¬ PassesChecks f) : validate f = .sensorErr := by
  cases hv : validate f with
  | sensorErr => rfl
  | ok hum tmp =>
    obtain ⟨hhead, hsum, -⟩ := validate_ok hv
    exact absurd ((checks_iff f).mp ⟨hhead, hsum⟩) h

theorem validate_ne_sensorErr_iff : validate f ≠ .sensorErr ↔ PassesChecks f := by
  constructor
  · exact fun h => Classical.not_not.mp fun hf => h (validate_failing hf)
  · intro h
    rw [validate_passing h]
    exact fun hne => CheckResult.noConfusion hne

end

/-! ### How many frames pass (42_frame_check.md R138) -/

/-- A word is the combination of two bytes exactly when they are its halves. -/
theorem eq_combine_iff (v : Word) (h l : Byte) : v = combine h l ↔ l = v.extractLsb' 0 8 ∧ h = v.extractLsb' 8 8 := by
  constructor
  · rintro rfl
    exact ⟨(combine_low h l).symm, (combine_high h l).symm⟩
  · rintro ⟨rfl, rfl⟩
    exact (combine_halves v).symm

/-- The frame with these four measurement bytes, header and checksum added. -/
def measurementFrame (d : Byte × Byte × Byte × Byte) : Frame :=
  #v[0x03, 0x04, d.1, d.2.1, d.2.2.1, d.2.2.2,
    (crc16 [0x03, 0x04, d.1, d.2.1, d.2.2.1, d.2.2.2]).extractLsb' 0 8,
    (crc16 [0x03, 0x04, d.1, d.2.1, d.2.2.1, d.2.2.2]).extractLsb' 8 8]

theorem measurementFrame_injective : Function.Injective measurementFrame := by
  rintro ⟨a, b, c, d⟩ ⟨a', b', c', d'⟩ h
  have hbyte (i : Fin 8) : (measurementFrame (a, b, c, d))[i] = (measurementFrame (a', b', c', d'))[i] := by rw [h]
  exact Prod.ext (hbyte 2) (Prod.ext (hbyte 3) (Prod.ext (hbyte 4) (hbyte 5)))

/-- The frames that pass are those made from four measurement bytes. -/
theorem mem_range_measurementFrame_iff (f : Frame) : f ∈ Set.range measurementFrame ↔ validate f ≠ .sensorErr := by
  rw [validate_ne_sensorErr_iff]
  constructor
  · rintro ⟨d, rfl⟩
    exact ⟨rfl, rfl, (combine_halves _).symm⟩
  · rintro ⟨h0, h1, hsum⟩
    rw [h0, h1, eq_combine_iff] at hsum
    obtain ⟨h6, h7⟩ := hsum
    refine ⟨(f[2], f[3], f[4], f[5]), Vector.ext fun i hi => ?_⟩
    match i, hi with
    | 0, _ => exact h0.symm
    | 1, _ => exact h1.symm
    | 2, _ | 3, _ | 4, _ | 5, _ => rfl
    | 6, _ => exact h6.symm
    | 7, _ => exact h7.symm

theorem card_passingFrames : Nat.card { f : Frame // validate f ≠ .sensorErr } = 2 ^ 32 :=
  calc Nat.card { f : Frame // validate f ≠ .sensorErr }
    _ = Nat.card (Set.range measurementFrame) :=
        Nat.card_congr (Equiv.subtypeEquivRight fun f => (mem_range_measurementFrame_iff f).symm)
    _ = Nat.card (Byte × Byte × Byte × Byte) := Nat.card_range_of_injective measurementFrame_injective
    _ = 2 ^ 32 := by simp [card_bitVec]

/-- Settles O36: the passing frames counted by their four free bytes, and the checksum taken apart into two. -/
theorem acceptableFramesAreCounted : Obligations.AcceptableFramesAreCounted := by
  refine ⟨card_passingFrames, fun f => ?_⟩
  rw [validate_ne_sensorErr_iff, PassesChecks, eq_combine_iff]

/-! ### The commands on a running block -/

section
variable {s : State} (h0 : s.fault = 0)
include h0

theorem exec_fpush_full (hw : s.wp = 8) (b : Byte) : exec (.fpush b) s = .next (s.raiseFault FCode.frameOverflow) :=
  (unlessFaulted_running h0 _).trans (if_pos hw)

/-- At `WP` above 8 there is no cell to store to (00_scope.md R14). -/
theorem exec_fpush_beyond (hw : 8 < s.wp.toNat) (b : Byte) :
    exec (.fpush b) s = .next (s.setWp (nextPointer s.wp b)) := by
  have h8 : s.wp ≠ 8 := by bv_omega
  calc exec (.fpush b) s
    _ = .next ((s.storeCell s.wp.toNat b).setWp (nextPointer s.wp b)) :=
        (unlessFaulted_running h0 _).trans (if_neg h8)
    _ = .next (s.setWp (nextPointer s.wp b)) := by rw [State.storeCell_outside s b (not_lt_of_gt hw)]

theorem exec_fchk_incomplete (hw : s.wp ≠ 8) : exec .fchk s = .next (s.raiseFault FCode.frameIncomplete) :=
  (unlessFaulted_running h0 _).trans (if_neg hw)

end

/-- The frame that the cells read as. -/
theorem Memory.frame_eq_of_reads {m : Memory} {f : Frame} (h : ∀ i : Fin 8, m.read i = some f[i]) : m.frame = f :=
  Vector.ext fun i hi => (m.frame_getElem ⟨i, hi⟩).trans <|
    Option.some.inj ((Memory.read_cell m hi).symm.trans (h ⟨i, hi⟩))

/-- With the invariant there is no result before the buffer is full (10_state.md R31). -/
theorem res_none_of_not_full {s : State} (hs : Inv s) (hw : s.wp ≠ 8) : s.res = Res.none :=
  Classical.not_not.mp fun h => hw (hs.checkedFull h)

/-! ### What the three commands answer (42_frame_check.md R132, R133, R135) -/

/-- Settles O29: with `FAULT = 0` the state `s.cleared`, with `FAULT = 1` the frozen state. -/
theorem fclrClearsTheFrame : Obligations.FclrClearsTheFrame :=
  ⟨rfl, fun s h0 => ⟨s.cleared, exec_fclr_running h0, rfl, fun _ => rfl,
    State.measValid_not_ok (s := s.cleared) Res.none_ne_ok⟩, fun _ h1 => exec_faulted h1 .fclr⟩

/-- Settles O30: the state FPUSH leaves is `s.pushed b`, its buffer one `put`. -/
theorem fpushStoresAtTheWritePointer : Obligations.FpushStoresAtTheWritePointer := by
  intro b
  refine ⟨rfl, fun s h0 hw => exec_fpush_full h0 hw b, fun s h0 hw => ?_⟩
  have hnext : (s.wp + 1).toNat = s.wp.toNat + 1 := by bv_omega
  have hnot : s.wp ≠ 8 := by bv_omega
  have hres : Inv s → s.res = Res.none := fun hs => res_none_of_not_full hs hnot
  exact ⟨s.pushed b, exec_fpush_room h0 hw b, rfl, hnext, Memory.read_put_same s.fb b hw,
    fun a ha => Memory.read_put_other s.fb b ha, hres⟩

/-- Settles O31: the store is outside the buffer; below 15 the pointer's sum fits. -/
theorem fpushPastTheBufferStoresNothing : Obligations.FpushPastTheBufferStoresNothing := by
  intro b s h0 hw
  refine ⟨_, exec_fpush_beyond h0 hw b, rfl, fun _ => rfl, fun h15 => ?_⟩
  have hfits : s.wp ≠ 15 := by bv_omega
  rw [State.setWp_wp, nextPointer_fits b hfits]
  bv_omega

/-- Settles O32: the cells read are the frame that `validate` is asked about, and it passes or fails. -/
theorem fchkValidatesTheFrame : Obligations.FchkValidatesTheFrame := by
  refine ⟨rfl, fun s h0 hw => exec_fchk_incomplete h0 hw, ?_⟩
  intro s f0 f1 f2 f3 f4 f5 f6 f7 h0 hw r0 r1 r2 r3 r4 r5 r6 r7
  have hframe : s.fb.frame = #v[f0, f1, f2, f3, f4, f5, f6, f7] := Memory.frame_eq_of_reads fun i =>
    match i with
    | 0 => r0 | 1 => r1 | 2 => r2 | 3 => r3 | 4 => r4 | 5 => r5 | 6 => r6 | 7 => r7
  have hpasses : PassesChecks s.fb.frame ↔ f0 = 0x03 ∧ f1 = 0x04 ∧ crc16 [f0, f1, f2, f3, f4, f5] = combine f7 f6 := by
    rw [hframe]
    rfl
  rw [exec_fchk_full h0 hw, ← hpasses]
  constructor
  · intro h
    rw [validate_passing h, hframe]
    rfl
  · intro h
    rw [validate_failing h]
    rfl

/-- Settles O33: the header and the checksum of each frame by evaluation. -/
theorem knownFramesValidate : Obligations.KnownFramesValidate := by
  unfold Obligations.KnownFramesValidate
  decide +kernel

/-! ### A second FCHK (42_frame_check.md R136) -/

/-- Recording a check twice is recording it once. -/
theorem State.recordCheck_recorded (s : State) (c : CheckResult) :
    (s.recordCheck c).recordCheck c = s.recordCheck c := by
  cases c <;> rfl

/-- A check's record does not touch the registers of the other units and the samples. -/
theorem State.recordCheck_otherUnits (s : State) (c : CheckResult) (a r : Word) (q : BitVec 13) (d : BitVec 4)
    (ps : List PortSample) :
    { s.recordCheck c with acc := a, raw := r, sq := q, sr := d, inputs := ps } =
      State.recordCheck { s with acc := a, raw := r, sq := q, sr := d, inputs := ps } c := by
  cases c <;> rfl

/-- FCHK of a block that has its check recorded writes what is there. -/
theorem exec_fchk_recorded {s : State} (h0 : s.fault = 0) (hw : s.wp = 8) :
    exec .fchk (s.recordCheck (validate s.fb.frame)) = .next (s.recordCheck (validate s.fb.frame)) := by
  rw [exec_fchk_full ((s.recordCheck_fault _).trans h0) ((s.recordCheck_wp _).trans hw), State.recordCheck_fb,
    State.recordCheck_recorded]

/-- Settles O34: a faulted block is frozen, and otherwise the same check is recorded of the same bytes. -/
theorem fchkMayBeRepeated : Obligations.FchkMayBeRepeated := by
  intro s t u h hu
  have hfault : u.fault = t.fault := by rw [hu]
  obtain ⟨h1, rfl⟩ | ⟨-, -, rfl⟩ | ⟨h0, hw, rfl⟩ := execFchk_next h
  · exact exec_faulted (hfault.trans h1) .fchk
  · exact exec_faulted hfault .fchk
  · rw [State.recordCheck_otherUnits] at hu
    rw [hu]
    exact exec_fchk_recorded h0 hw

/-! ### What the three commands leave unchanged (42_frame_check.md R132, R133, R135) -/

section
variable {s t : State}

/-- No command of the frame unit writes the registers of the other two (10_state.md R32), or what the host presents. -/
theorem exec_frameCommand_otherUnits {i : Instr} (hi : isFrameCommand i = true) (h : exec i s = .next t) :
    t.acc = s.acc ∧ t.raw = s.raw ∧ t.sq = s.sq ∧ t.sr = s.sr ∧ t.inputs = s.inputs := by
  obtain ⟨-, c, rfl⟩ | ht := exec_frameCommand_next hi h
  · exact ⟨rfl, rfl, rfl, rfl, rfl⟩
  · rw [ht]
    exact ⟨rfl, rfl, rfl, rfl, rfl⟩

theorem execFclr_fault (h : execFclr s = .next t) : t.fault = s.fault ∧ t.fcode = s.fcode := by
  obtain ⟨-, rfl⟩ | ⟨-, rfl⟩ := execFclr_next h <;> exact ⟨rfl, rfl⟩

theorem execFpush_result {b : Byte} (h : execFpush b s = .next t) :
    t.res = s.res ∧ t.mhI = s.mhI ∧ t.mhT = s.mhT ∧ t.mtI = s.mtI ∧ t.mtT = s.mtT := by
  obtain ⟨-, rfl⟩ | ⟨-, -, rfl⟩ | ⟨-, -, rfl⟩ := execFpush_next h
  · exact ⟨rfl, rfl, rfl, rfl, rfl⟩
  · exact ⟨rfl, rfl, rfl, rfl, rfl⟩
  · rw [State.storeCell_eq]
    exact ⟨rfl, rfl, rfl, rfl, rfl⟩

/-- FPUSH raises its fault at `WP = 8` only. -/
theorem execFpush_fault {b : Byte} (h : execFpush b s = .next t) (hw : s.wp ≠ 8) :
    t.fault = s.fault ∧ t.fcode = s.fcode := by
  obtain ⟨-, rfl⟩ | ⟨-, h8, -⟩ | ⟨-, -, rfl⟩ := execFpush_next h
  · exact ⟨rfl, rfl⟩
  · exact absurd h8 hw
  · rw [State.storeCell_eq]
    exact ⟨rfl, rfl⟩

/-- At `WP = 8` FPUSH neither stores nor advances. -/
theorem execFpush_full {b : Byte} (h : execFpush b s = .next t) (hw : s.wp = 8) : t.wp = s.wp ∧ t.fb = s.fb := by
  obtain ⟨-, rfl⟩ | ⟨-, -, rfl⟩ | ⟨-, h8, -⟩ := execFpush_next h
  · exact ⟨rfl, rfl⟩
  · exact ⟨rfl, rfl⟩
  · exact absurd hw h8

theorem execFchk_wp (h : execFchk s = .next t) : t.wp = s.wp := by
  obtain ⟨-, rfl⟩ | ⟨-, -, rfl⟩ | ⟨-, -, rfl⟩ := execFchk_next h
  · rfl
  · rfl
  · exact State.recordCheck_wp s _

/-- FCHK raises no fault at `WP = 8`. -/
theorem execFchk_fault (h : execFchk s = .next t) (hw : s.wp = 8) : t.fault = s.fault ∧ t.fcode = s.fcode := by
  obtain ⟨-, rfl⟩ | ⟨-, h8, -⟩ | ⟨-, -, rfl⟩ := execFchk_next h
  · exact ⟨rfl, rfl⟩
  · exact absurd hw h8
  · exact ⟨State.recordCheck_fault s _, State.recordCheck_fcode s _⟩

/-- FCHK has a result at `WP = 8` only. -/
theorem execFchk_result (h : execFchk s = .next t) (hw : s.wp ≠ 8) :
    t.res = s.res ∧ t.mhI = s.mhI ∧ t.mhT = s.mhT ∧ t.mtI = s.mtI ∧ t.mtT = s.mtT := by
  obtain ⟨-, rfl⟩ | ⟨-, -, rfl⟩ | ⟨-, h8, -⟩ := execFchk_next h
  · exact ⟨rfl, rfl, rfl, rfl, rfl⟩
  · exact ⟨rfl, rfl, rfl, rfl, rfl⟩
  · exact absurd h8 hw

end

/-- Settles O38: the registers of the other units for all three commands, then each command's own. -/
theorem frameCommandsFrame : Obligations.FrameCommandsFrame := by
  refine ⟨fun s t h => ?fclr, fun b s t h => ?fpush, fun s t h => ?fchk⟩
  case fclr =>
    obtain ⟨hacc, hraw, hsq, hsr, hin⟩ := exec_frameCommand_otherUnits rfl h
    obtain ⟨hfault, hfcode⟩ := execFclr_fault h
    have hfb : t.fb = s.fb := exec_fb_of_ne_fpush h fun _ => Instr.noConfusion
    exact ⟨hacc, hraw, hsq, hsr, hfault, hfcode, hin, fun a => congrArg (Memory.read · a) hfb⟩
  case fpush =>
    obtain ⟨hacc, hraw, hsq, hsr, hin⟩ := exec_frameCommand_otherUnits rfl h
    obtain ⟨hres, hmhI, hmhT, hmtI, hmtT⟩ := execFpush_result h
    exact ⟨hacc, hraw, hsq, hsr, hres, hmhI, hmhT, hmtI, hmtT, execFpush_fault h,
      fun hw => (execFpush_full h hw).1, hin, fun _ => execFpush_read_other h,
      fun hw a => congrArg (Memory.read · a) (execFpush_full h hw).2⟩
  case fchk =>
    obtain ⟨hacc, hraw, hsq, hsr, hin⟩ := exec_frameCommand_otherUnits rfl h
    have hfb : t.fb = s.fb := exec_fb_of_ne_fpush h fun _ => Instr.noConfusion
    exact ⟨hacc, hraw, hsq, hsr, execFchk_wp h, execFchk_fault h, execFchk_result h, hin,
      fun a => congrArg (Memory.read · a) hfb⟩

/-! ### Loading along a sequence (42_frame_check.md R134) -/

/-- `t` is `s` with these bytes pushed, the registers of the CRC and the decode unit apart. -/
def LoadedFrom (s : State) (bs : List Byte) (t : State) : Prop :=
  t = { s.loaded bs with acc := t.acc, raw := t.raw, sq := t.sq, sr := t.sr }

/-- The byte pushed first is the first of those loaded. -/
theorem LoadedFrom.cons {s t : State} {b : Byte} {bs : List Byte} (hw : s.wp.toNat < 8)
    (h : LoadedFrom (s.pushed b) bs t) : LoadedFrom s (b :: bs) t := by
  unfold LoadedFrom
  rw [State.loaded_cons s b bs hw]
  exact h

theorem PortSample.command_of_frameByte {p : PortSample} {b : Byte} (h : p.frameByte = some b) :
    p.command = some (.fpush b) := by
  unfold PortSample.frameByte at h
  split at h
  · cases h
    assumption
  · cases h

theorem PortSample.frameByte_of_command {p : PortSample} {b : Byte} (h : p.command = some (.fpush b)) :
    p.frameByte = some b := by
  rw [PortSample.frameByte, h]

/-- A sample that may come between FCLR and the last FPUSH: idle, or a CRC command, a decode command or FPUSH. -/
def IsLoadingSample (p : PortSample) : Prop :=
  p.input = .idle ∨ ∃ i, p.command = some i ∧ (isCrcCommand i = true ∨ isDecodeCommand i = true ∨ ∃ b, i = .fpush b)

section
variable {s : State}

/-- All that such a sample can do: write outside the frame unit, or push its byte. -/
theorem State.edge_loading {p : PortSample} (hp : IsLoadingSample p) :
    (p.frameByte = none ∧ ∃ a r v, s.edge p = .next (((s.setAcc a).setRaw r).setScaled v)) ∨
      ∃ b, p.frameByte = some b ∧ s.edge p = exec (.fpush b) s := by
  cases hb : p.frameByte with
  | some b => exact .inr ⟨b, rfl, s.edge_command (PortSample.command_of_frameByte hb)⟩
  | none =>
    refine .inl ⟨rfl, ?_⟩
    obtain hidle | ⟨i, hc, hi⟩ := hp
    · exact ⟨s.acc, s.raw, ⟨s.sq, s.sr⟩, s.edge_idle hidle⟩
    · obtain ⟨t, ht⟩ := exec_answers i s
      rw [s.edge_command hc, ht]
      obtain hi | hi | ⟨b, rfl⟩ := hi
      · obtain ⟨a, rfl⟩ := exec_crcCommand_next hi ht
        exact ⟨a, s.raw, ⟨s.sq, s.sr⟩, rfl⟩
      · obtain ⟨r, v, rfl, -⟩ := exec_decodeCommand_next hi ht
        exact ⟨s.acc, r, v, rfl⟩
      · cases hb.symm.trans (PortSample.frameByte_of_command hc)

/-- Such samples, with no more FPUSH than there are cells left, push their bytes. -/
theorem State.play_loading {ps : List PortSample} (h0 : s.fault = 0) (hps : ∀ p ∈ ps, IsLoadingSample p)
    (hlen : s.wp.toNat + (ps.filterMap PortSample.frameByte).length ≤ 8) :
    ∃ t, s.play ps = .next t ∧ LoadedFrom s (ps.filterMap PortSample.frameByte) t := by
  induction ps generalizing s with
  | nil => exact ⟨s, rfl, s.loaded_nil.symm⟩
  | cons p ps ih =>
    obtain ⟨hp, hps⟩ := List.forall_mem_cons.mp hps
    rw [State.play_cons]
    obtain ⟨hnone, a, r, v, hedge⟩ | ⟨b, hsome, hedge⟩ := State.edge_loading (s := s) hp
    · rw [List.filterMap_cons_none hnone] at hlen ⊢
      rw [hedge]
      exact ih (s := ((s.setAcc a).setRaw r).setScaled v) h0 hps hlen
    · rw [List.filterMap_cons_some hsome] at hlen ⊢
      rw [List.length_cons] at hlen
      have hw : s.wp.toNat < 8 := by omega
      have hroom : (s.wp + 1).toNat + (ps.filterMap PortSample.frameByte).length ≤ 8 := by bv_omega
      rw [hedge, exec_fpush_room h0 hw]
      exact (ih (s := s.pushed b) h0 hps hroom).imp fun _ ⟨hplay, hload⟩ => ⟨hplay, hload.cons hw⟩

end

/-- Settles O35: FCLR clears the pointer, and the samples after it push their bytes from cell 0 on. -/
theorem loadingLaw : Obligations.LoadingLaw := by
  intro s ps h0 hps hlen
  have hloading : ∀ p ∈ ps, IsLoadingSample p := fun p hp =>
    (hps p hp).imp_right fun ⟨i, _, hc, hi⟩ => ⟨i, hc, hi⟩
  obtain ⟨t, hplay, ht⟩ :=
    State.play_loading (s := s.cleared) h0 hloading ((Nat.zero_add _).trans_le hlen)
  generalize ps.filterMap PortSample.frameByte = bs at hlen ht ⊢
  have hwp : t.wp = BitVec.ofNat 4 bs.length := (congrArg State.wp ht).trans (BitVec.zero_add _)
  have hfb : t.fb = s.fb.putList 0 bs := congrArg State.fb ht
  refine ⟨t, ?play, ?wp, fun i hi => ?cell, ?regs⟩
  case play => rw [State.play_cons, s.edge_command (issue_command .fclr), exec_fclr_running h0, andThen_next, hplay]
  case wp => rw [hwp, BitVec.toNat_ofNat, Nat.mod_eq_of_lt (by omega)]
  case cell =>
    have hput : (s.fb.putList 0 bs).lookup i = bs[i] := by
      simpa only [Nat.zero_add] using Memory.lookup_putList s.fb 0 bs hi
    rw [hfb, Memory.read_cell _ (Nat.lt_of_lt_of_le hi hlen), hput, List.getElem?_eq_getElem hi]
  case regs =>
    rw [ht]
    exact ⟨rfl, rfl, rfl, rfl, rfl, h0⟩

/-! ### The measurement ports (42_frame_check.md R137) -/

theorem State.res_of_measValid {s : State} (h : s.measValid = 1) : s.res = Res.ok :=
  Classical.not_not.mp fun hne => absurd (h.symm.trans (State.measValid_not_ok hne)) (by decide)

theorem State.res_of_measValid_zero {s : State} (h : s.measValid = 0) : s.res ≠ Res.ok := fun hok =>
  absurd (h.symm.trans (State.measValid_ok hok)) (by decide)

/-- With the invariant, the frame behind a result `OK` passes, with the measurement shown (10_state.md R31 (e)). -/
theorem validate_of_res_ok {s : State} (hs : Inv s) (h : s.res = Res.ok) :
    validate s.fb.frame = .ok ⟨s.mhI, s.mhT⟩ ⟨s.mtI, s.mtT⟩ := by
  obtain ⟨-, h0, h1, hsum, hhum, htmp⟩ := hs.okFrame h
  have hpass : PassesChecks s.fb.frame := ⟨h0, h1, hsum.trans (combine_eq_append _ _).symm⟩
  rw [validate_passing hpass, hhum, htmp]
  rfl

/-- Settles O43: the step keeps the invariant, which ties the measurement registers to `RES` and to the buffer. -/
theorem noPartialExposure : Obligations.NoPartialExposure := by
  intro s t hs h
  have ht : Inv t := hs.step h
  exact ⟨fun hv => ht.noStale (State.res_of_measValid_zero hv),
    fun hv => validate_of_res_ok ht (State.res_of_measValid hv)⟩

end Sys2Proof.Machine
end

section
/-! SUPPORT and proofs of the host family (43_host_sequencer.md R153 to R165): one equation per way a read can go, what
the host reads off the ports after a check, and the time spent in delays. -/

namespace Sys2Proof.Machine

/-! ### How a read goes (43_host_sequencer.md R153 to R160) -/

section
variable {bus : BusAnswers} {s : State} {f : Frame}

/-- R154: the answer to the wake write is discarded. -/
theorem hostRead_wakeOk (d : Delays) (bus : BusAnswers) (s : State) (b : Bool) :
    hostRead d { bus with wakeOk := b } s = hostRead d bus s := rfl

theorem hostRead_commandFailed (d : Delays) (s : State) (hc : bus.commandOk = false) :
    hostRead d bus s = ⟨wakeActions d, .error .writeFailure, s⟩ := by
  simp only [hostRead, hc, Bool.false_eq_true, if_false]

theorem hostRead_responseFailed (d : Delays) (s : State) (hc : bus.commandOk = true) (hr : bus.response = none) :
    hostRead d bus s = ⟨wakeActions d ++ fetchActions d, .error .readFailure, s⟩ := by
  simp only [hostRead, hc, hr, if_true]

/-- R160: with `FAULT = 0` the block answers VALIDATE of the frame read, and the host reads the ports of that answer. -/
theorem hostRead_validated (d : Delays) (h0 : s.fault = 0) (hc : bus.commandOk = true) (hr : bus.response = some f) :
    hostRead d bus s =
      ⟨wakeActions d ++ fetchActions d, ((s.withFrame f).recordCheck (validate f)).ports.readResult,
        (s.withFrame f).recordCheck (validate f)⟩ := by
  have hplay : s.play (validateSamples f) = .next ((s.withFrame f).recordCheck (validate f)) := s.play_validate h0 f
  simp only [hostRead, hc, hr, hplay, if_true]

/-- Once the command write succeeds, all five bus actions are done, whatever comes of them. -/
theorem hostRead_actions (d : Delays) (s : State) (hc : bus.commandOk = true) :
    (hostRead d bus s).actions = wakeActions d ++ fetchActions d := by
  cases hr : bus.response with
  | none => rw [hostRead_responseFailed d s hc hr]
  | some f => cases hplay : s.play (validateSamples f) <;> simp only [hostRead, hc, hr, hplay, if_true]

end

/-- Settles O49: the equations of the two aborts, with the bus actions of each written out. -/
theorem hostReadAborts : Obligations.HostReadAborts := fun d bus s =>
  ⟨hostRead_wakeOk d bus s, hostRead_commandFailed d s, hostRead_responseFailed d s⟩

/-! ### What the host reads off the ports (43_host_sequencer.md R161) -/

section
variable {s : State}

theorem State.readResult_ok (h0 : s.fault = 0) (hres : s.res = Res.ok) :
    s.ports.readResult = .ok ⟨⟨s.mhI, s.mhT⟩, ⟨s.mtI, s.mtT⟩⟩ :=
  (if_neg (bit_ne_one.mpr h0)).trans (if_pos (State.measValid_ok hres))

theorem State.readResult_sensorErr (h0 : s.fault = 0) (hres : s.res = Res.sensorErr) :
    s.ports.readResult = .error .sensorFailure := by
  have hmeas : s.measValid ≠ 1 := bit_ne_one.mpr (State.measValid_not_ok (by rw [hres]; decide))
  exact (if_neg (bit_ne_one.mpr h0)).trans ((if_neg hmeas).trans (if_pos (State.sensorErr_failed hres)))

/-- The ports after the record of a good check show the measurement recorded. -/
theorem State.readResult_recordCheck_ok (h0 : s.fault = 0) (hum tmp : Scaled) :
    (s.recordCheck (.ok hum tmp)).ports.readResult = .ok ⟨hum, tmp⟩ :=
  State.readResult_ok (s := s.recordCheck (.ok hum tmp)) h0 rfl

theorem State.readResult_recordCheck_sensorErr (h0 : s.fault = 0) :
    (s.recordCheck .sensorErr).ports.readResult = .error .sensorFailure :=
  State.readResult_sensorErr (s := s.recordCheck .sensorErr) h0 rfl

end

/-- Settles O48: the read ends in the block's record of the check of the frame, without a fault, and the ports show it. -/
theorem hostReadReturnsTheValidatedFrame : Obligations.HostReadReturnsTheValidatedFrame := by
  intro d bus s f h0 hc hr
  have hframe : (s.withFrame f).fault = 0 := h0
  rw [hostRead_validated d h0 hc hr]
  refine ⟨?fault, fun hum tmp hv => ?ok, fun hv => ?sensorErr⟩
  case fault => exact (State.recordCheck_fault _ _).trans hframe
  case ok => rw [hv]; exact State.readResult_recordCheck_ok hframe hum tmp
  case sensorErr => rw [hv]; exact State.readResult_recordCheck_sensorErr hframe

/-! ### The time a read blocks (43_host_sequencer.md R155, R157, R165) -/

theorem Delays.allowed_iff (d : Delays) :
    d.allowed = true ↔ (800 ≤ d.wake.toNat ∧ d.wake.toNat ≤ 3000) ∧ 1500 ≤ d.result.toNat := by
  simp only [Delays.allowed, Bool.and_eq_true, decide_eq_true_eq]
  rfl

theorem delayTotal_allActions (d : Delays) :
    delayTotal (wakeActions d ++ fetchActions d) = d.wake.toNat + d.result.toNat := rfl

/-- A read that returns a measurement did not abort at the command write. -/
theorem commandOk_of_hostRead_ok {d : Delays} {bus : BusAnswers} {s : State} {m : Measurement}
    (h : (hostRead d bus s).result = .ok m) : bus.commandOk = true := by
  by_contra hc
  rw [hostRead_commandFailed d s (Bool.eq_false_iff.mpr hc)] at h
  cases h

/-- Settles O50: a read that returns a measurement has done both delays, whose windows begin at 800 and 1500. -/
theorem successfulReadBlocksLongEnough : Obligations.SuccessfulReadBlocksLongEnough := by
  intro d bus s m hd h
  obtain ⟨⟨hwake, -⟩, hresult⟩ := d.allowed_iff.mp hd
  rw [hostRead_actions d s (commandOk_of_hostRead_ok h), delayTotal_allActions]
  exact Nat.add_le_add hwake hresult

end Sys2Proof.Machine
end

section
/-! SUPPORT and proofs of the exceptions family (60_exceptions.md R182 to R188): the frozen block, the three causes of a
fault, the priority of one step. -/

namespace Sys2Proof.Machine

/-! ### A faulted block, by what it samples (60_exceptions.md R187) -/

/-- The freeze hides an illegal word too (60_exceptions.md R186 (3)). -/
theorem raiseIllegal_faulted {s : State} (h : s.fault = 1) : raiseIllegal s = .next s := unlessFaulted_faulted h _

theorem raiseIllegal_running {s : State} (h : s.fault = 0) : raiseIllegal s = .next (s.raiseFault FCode.illegal) :=
  unlessFaulted_running h _

/-- While `FAULT = 1` a step without reset takes its sample and does nothing else. -/
theorem step_faulted {s : State} (h : s.fault = 1) (hr : s.sampled ≠ .reset) : step s = .next s.consume := by
  cases hs : s.sampled with
  | reset => exact absurd hs hr
  | idle => exact step_idle hs
  | cmd w =>
    cases hd : decode w with
    | none => exact (step_illegal hs hd).trans (raiseIllegal_faulted (s := s.consume) h)
    | some i => exact (step_command hs hd).trans (exec_faulted (s := s.consume) h i)

theorem PortSample.input_ne_reset {p : PortSample} (h : p.rst = 0) : p.input ≠ .reset := by
  by_cases hv : p.cmdValid = 1
  · simp [PortSample.input_cmd h hv]
  · simp [PortSample.input_idle h (bit_ne_one.mp hv)]

/-! ### The causes of a fault (60_exceptions.md R182) -/

/-- A command that faults a running block is FPUSH at `WP = 8` or FCHK elsewhere, each with its own code. -/
theorem exec_fault_cause {i : Instr} {s t : State} (h0 : s.fault = 0) (h : exec i s = .next t) (ht : t.fault = 1) :
    ((∃ b, i = .fpush b) ∧ s.wp = 8 ∧ t = s.raiseFault FCode.frameOverflow) ∨
    (i = .fchk ∧ s.wp ≠ 8 ∧ t = s.raiseFault FCode.frameIncomplete) := by
  have hf : t.fault ≠ s.fault := by
    rw [ht, h0]
    decide
  obtain hu | hu | hu := isCrc_or_isDecode_or_isFrame i
  · obtain ⟨a, rfl⟩ := exec_crcCommand_next hu h
    exact absurd rfl hf
  · obtain ⟨r, p, rfl, -⟩ := exec_decodeCommand_next hu h
    exact absurd rfl hf
  · cases i with
    | fclr => exact absurd (execFclr_fault h).1 hf
    | fpush b =>
      by_cases hw : s.wp = 8
      · rw [exec_fpush_full h0 hw] at h
        cases h
        exact .inl ⟨⟨b, rfl⟩, hw, rfl⟩
      · exact absurd (execFpush_fault h hw).1 hf
    | fchk =>
      by_cases hw : s.wp = 8
      · exact absurd (execFchk_fault h hw).1 hf
      · rw [exec_fchk_incomplete h0 hw] at h
        cases h
        exact .inr ⟨rfl, hw, rfl⟩
    | _ => cases hu

/-! ### The obligations -/

/-- Settles O12: every command and every sample but a reset meets the freeze, and the ports show no coming sample. -/
theorem faultedBlockIsFrozen : Obligations.FaultedBlockIsFrozen := by
  refine fun s h1 => ⟨exec_faulted h1, fun p rest hin hrst => ⟨_, ?_, rfl, rfl⟩⟩
  have hr : s.sampled ≠ .reset := State.sampled_cons hin ▸ PortSample.input_ne_reset hrst
  rw [step_faulted h1 hr, State.consume_cons hin]

/-- Settles O13: a reset step ends with `FAULT = 0`, any other step of a faulted block only takes its sample. -/
theorem onlyResetClearsAFault : Obligations.OnlyResetClearsAFault := by
  intro s t h1 h
  by_cases hr : s.sampled = .reset
  · rw [step_reset hr] at h
    cases h
    exact ⟨fun _ => ⟨hr, rfl⟩, fun ht => absurd ((State.resetStep_fault _).symm.trans ht) (by decide)⟩
  · rw [step_faulted h1 hr] at h
    cases h
    exact ⟨fun ht => absurd (h1.symm.trans ht) (by decide), fun _ => rfl⟩

/-- Settles O14: of what one step can do, only an illegal word and a command raise a fault, and of the commands only two. -/
theorem faultEntryIsPrecise : Obligations.FaultEntryIsPrecise := by
  intro s t h0 h ht
  obtain ⟨-, rfl⟩ | ⟨-, rfl⟩ | ⟨w, hs, hd, hx⟩ | ⟨w, i, hs, hd, hx⟩ := step_cases h
  · exact absurd ((State.resetStep_fault _).symm.trans ht) (by decide)
  · exact absurd (h0.symm.trans ht) (by decide)
  · rw [raiseIllegal_running (s := s.consume) h0] at hx
    cases hx
    exact ⟨rfl, w, hs, .inl ⟨rfl, hd⟩⟩
  · obtain ⟨⟨b, rfl⟩, hw, rfl⟩ | ⟨rfl, hw, rfl⟩ := exec_fault_cause (s := s.consume) h0 hx ht
    · exact ⟨rfl, w, hs, .inr (.inl ⟨rfl, hw, b, hd⟩)⟩
    · exact ⟨rfl, w, hs, .inr (.inr ⟨rfl, hw, hd⟩)⟩

/-- Settles O6: one clause for each level, from what a step does by what it samples and the command's answer there. -/
theorem stepFollowsThePriority : Obligations.StepFollowsThePriority := by
  intro s p rest hin
  have hsampled : s.sampled = p.input := State.sampled_cons hin
  have hcmd (hrst : p.rst = 0) (hv : p.cmdValid = 1) : s.sampled = .cmd p.cmd :=
    hsampled.trans (PortSample.input_cmd hrst hv)
  rw [← State.consume_cons hin]
  refine ⟨fun hrst => ?reset, fun hrst hv => ?idle, fun hrst hv h1 => ?freeze, fun hrst hv h0 hd => ?illegal,
    fun hrst hv h0 hw ⟨b, hd⟩ => ?overflow, fun hrst hv h0 hw hd => ?incomplete, fun hrst hv h0 i hd _ _ => ?effect⟩
  case reset =>
    rw [step_reset (hsampled.trans (PortSample.input_reset hrst)), State.consume_cons hin]
    rfl
  case idle => exact step_idle (hsampled.trans (PortSample.input_idle hrst hv))
  case freeze => exact step_faulted h1 (hsampled ▸ PortSample.input_ne_reset hrst)
  case illegal =>
    rw [step_illegal (hcmd hrst hv) hd, State.consume_cons hin]
    exact raiseIllegal_running (s := { s with inputs := rest }) h0
  case overflow =>
    rw [step_command (hcmd hrst hv) hd, State.consume_cons hin]
    exact exec_fpush_full (s := { s with inputs := rest }) h0 hw b
  case incomplete =>
    rw [step_command (hcmd hrst hv) hd, State.consume_cons hin]
    exact exec_fchk_incomplete (s := { s with inputs := rest }) h0 hw
  case effect => exact step_command (hcmd hrst hv) hd

end Sys2Proof.Machine
end

section
/-! SUPPORT and proofs of the reset and hazards family (70_reset_and_hazards.md R210, R219): a reset step from every state,
and idle samples between the others. -/

namespace Sys2Proof.Machine

/-- An idle sample at the head of a sequence only takes its edge (70_reset_and_hazards.md R219). -/
theorem State.play_idle_cons (s : State) {p : PortSample} (h : p.input = .idle) (ps : List PortSample) :
    s.play (p :: ps) = s.play ps := by
  rw [State.play_cons, State.edge_idle s h, andThen_next]

/-! ### The obligations -/

/-- Settles O9, by induction on the samples: an idle head drops out of both runs, any other head takes the same edge. -/
theorem idleStepsDoNotMatter : Obligations.IdleStepsDoNotMatter := by
  intro s ps
  induction ps generalizing s with
  | nil => rfl
  | cons p ps ih =>
    by_cases hp : p.input = .idle
    · rw [List.filter_cons_of_neg (by simp [hp]), State.play_idle_cons s hp, ih s]
    · rw [List.filter_cons_of_pos (by simp [hp]), State.play_cons, State.play_cons]
      exact congrArg (andThen (s.edge p)) (funext ih)

/-- Settles O11: the step is `resetStep` of the state without its sample, whose fields are `reset_state`'s. -/
theorem resetStepFromEveryState : Obligations.ResetStepFromEveryState := by
  intro s p rest hin hrst
  have hs : s.sampled = .reset := (State.sampled_cons hin).trans (PortSample.input_reset hrst)
  have hrest : s.consume.resetStep.inputs = rest := congrArg List.tail hin
  exact ⟨_, step_reset hs, hrest, rfl, rfl, rfl, rfl, fun _ => Memory.read_reset, rfl, rfl, rfl, rfl, rfl, rfl, rfl, rfl⟩

end Sys2Proof.Machine
end
